-- ==== Sys2Proof/Word.lean ====
section
/-! DEFINITION. The 64-bit register pattern and the byte of the bus (00_scope.md R2: XLEN = 64). -/

namespace Sys2Proof

/-- A 64-bit pattern: what every register holds (00_scope.md R2, §4). -/
abbrev Word := BitVec 64

/-- One byte lane of the host's bus (20_memory.md R44). -/
abbrev Byte := BitVec 8

/-- An offset into the 256-byte register window (20_memory.md R40). -/
abbrev Offset := BitVec 8

end Sys2Proof
end

