-- ==== Sys2Proof/Syntax.lean ====
section
/-! DEFINITION. The commands of the engine, one constructor per row of spec/opcode_table.json (30_encoding.md R61). -/

namespace Sys2Proof

/-- A command. No command has an operand field: operands come from fixed registers (30_encoding.md R60, R65). -/
inductive Instr where
  /-- 0x0 NOP, no operation (40_control.md R83). -/
  | nop
  /-- 0x1 CONFIG, validate and load the curve parameters (40_control.md R84). -/
  | config
  /-- 0x2 RED, reduce to the canonical residue (41_field.md R90). -/
  | red
  /-- 0x3 INV, modular inverse (41_field.md R92). -/
  | inv
  /-- 0x4 ONCURVE, curve-membership test (42_point.md R101). -/
  | onCurve
  /-- 0x5 DBL, point doubling (42_point.md R103). -/
  | dbl
  /-- 0x6 ADD, point addition (42_point.md R105). -/
  | add
  /-- 0x7 SMUL, scalar multiplication (43_scalar.md R131). -/
  | smul
  deriving DecidableEq, Repr

end Sys2Proof
end

