-- ==== Sys2Proof/WellFormed.lean ====
section
/-! DEFINITION. What makes a command word well formed (30_encoding.md R60, R61). The checks are on the 64-bit word: a
command as syntax has no operand that could be out of range, so every `Instr` is well formed. -/

namespace Sys2Proof

/-- Bits 63:4 (RSVD) are 0 (30_encoding.md R60, R62). -/
def reservedClear (w : Word) : Bool := w >>> 4 == 0

/-- OPCODE, bits 3:0, is one of 0x0 to 0x7 (30_encoding.md R61, R63). -/
def opcodeAssigned (w : Word) : Bool := (w &&& 0xF).toNat < 8

/-- A valid command word: both checks hold (30_encoding.md R61). -/
def commandWellFormed (w : Word) : Bool := reservedClear w && opcodeAssigned w

/-- A command as syntax: the format has no register-select, immediate or mode field (30_encoding.md R60), so there is
nothing to check. -/
def Instr.wellFormed : Instr → Bool
  | .nop => true
  | .config => true
  | .red => true
  | .inv => true
  | .onCurve => true
  | .dbl => true
  | .add => true
  | .smul => true

end Sys2Proof
end

