-- ==== Sys2Proof/Decode.lean ====
section
/-! DEFINITION. The decoder of command words, total and rejecting by name, with the byte lanes it reads a word from,
and after it the encoder (30_encoding.md R60-R63, 20_memory.md R44). -/

namespace Sys2Proof

/-- Why a command is no instruction. The two word reasons are the engine's `ILLEGAL` (60_exceptions.md R156). -/
inductive Reject where
  /-- Fewer than eight bytes were given: every command is exactly one 64-bit word (30_encoding.md R67). -/
  | tooShort
  /-- One of bits 63:4 is set (30_encoding.md R62). -/
  | reservedBits
  /-- OPCODE 0x8 to 0xF with bits 63:4 clear (30_encoding.md R63). -/
  | reservedOpcode
  deriving DecidableEq, Repr

/-- OPCODE, bits 3:0 (30_encoding.md R60). -/
def opcodeField (w : Word) : BitVec 4 := w.extractLsb' 0 4

/-- RSVD, bits 63:4 (30_encoding.md R60). -/
def reservedField (w : Word) : BitVec 60 := w.extractLsb' 4 60

/-- The command of an OPCODE value (30_encoding.md R61). -/
def ofOpcode (op : BitVec 4) : Except Reject Instr :=
  match op.toNat with
  | 0x0 => .ok .nop
  | 0x1 => .ok .config
  | 0x2 => .ok .red
  | 0x3 => .ok .inv
  | 0x4 => .ok .onCurve
  | 0x5 => .ok .dbl
  | 0x6 => .ok .add
  | 0x7 => .ok .smul
  | _ => .error .reservedOpcode

/-- The command of a 64-bit word, from the word alone (30_encoding.md R60, R62, R63). -/
def decodeWord (w : Word) : Except Reject Instr :=
  if reservedField w ≠ 0 then .error .reservedBits else ofOpcode (opcodeField w)

/-- The eight byte lanes of a word: lane `i` is bits `[8i+7 : 8i]` (20_memory.md R44). -/
def lanesOf (v : Word) : List Byte := (List.range 8).map fun i => v.extractLsb' (8 * i) 8

/-- The word whose lane `i` is the `i`-th byte given (20_memory.md R44). -/
def ofLanes (lanes : List Byte) : Word := lanes.foldr (fun b acc => (acc <<< 8) ||| b.setWidth 64) 0

/-- The first command of a list of bytes, with the bytes after it: each command is one 64-bit word (30_encoding.md
R67) in the lane order of 20_memory.md R44. -/
def decodeBytes (bytes : List Byte) : Except Reject (Instr × List Byte) :=
  if bytes.length < 8 then .error .tooShort
  else
    match decodeWord (ofLanes (bytes.take 8)) with
    | .ok i => .ok (i, bytes.drop 8)
    | .error r => .error r

/-- The command the decoder reads from the word whose low `nbits` bits are `w`, every bit above them 0; bit 0 of `w`
is bit 0 of the command word. Nothing has more than 64 bits (30_encoding.md R67). -/
def decodeTableWord (nbits w : Nat) : Option Instr :=
  if nbits ≤ 64 then
    match decodeBytes (lanesOf (BitVec.ofNat 64 (w % 2 ^ nbits))) with
    | .ok (i, _) => some i
    | .error _ => none
  else none

/-- The OPCODE value of a command (30_encoding.md R61). -/
def opcodeOf : Instr → BitVec 4
  | .nop => 0x0
  | .config => 0x1
  | .red => 0x2
  | .inv => 0x3
  | .onCurve => 0x4
  | .dbl => 0x5
  | .add => 0x6
  | .smul => 0x7

/-- The command word of a command: RSVD zero above its OPCODE (30_encoding.md R60, R61). -/
def encode (i : Instr) : Word := (0 : BitVec 60) ++ opcodeOf i

/-- The bytes of a command word as the bus carries them (20_memory.md R44). -/
def encodeBytes (i : Instr) : List Byte := lanesOf (encode i)

end Sys2Proof
end

