-- ==== Sys2Proof/Config.lean ====
section
/-! DEFINITION. What an implementation fixes: the fixed parameters of 00_scope.md R2, and the three it leaves OPEN as
opaque constants, of which nothing in Lean can find a value. -/

namespace Sys2Proof.Config

/-- `P_MIN`, the least legal modulus (00_scope.md R2, 40_control.md R85). -/
def pMin : Int := 3

/-- `P_MAX`, the greatest legal modulus (00_scope.md R2, 40_control.md R85). -/
def pMax : Int := 2 ^ 63 - 1

/-- `WINDOW_SIZE` in bytes (00_scope.md R2, 20_memory.md R40). -/
def windowSize : Nat := 256

/-- `ENGINE_BASE`, the host address of the register window: OPEN (00_scope.md R2; log entry 13). -/
opaque engineBase : Nat

/-- `IRQ_LINE`, the host interrupt line the output is wired to: OPEN (00_scope.md R2, 60_exceptions.md R162; log
entry 13). -/
opaque irqLine : Nat

/-- FREE VALUE. `LAT(w, lat) - 1`, the internal steps a command takes before its completion step: the draw for the
`draw`-th accepted issue, of the command word and the latched copies. Nothing constrains it but being finite
(40_control.md R81, 70_reset_and_hazards.md R190; log entry 3). -/
opaque internalSteps (draw : Nat) (cmd : Word) (copies : List Word) : Nat

/-- `LAT(w, lat)`: at least 1 and finite (40_control.md R81). -/
def latency (draw : Nat) (cmd : Word) (copies : List Word) : Nat := internalSteps draw cmd copies + 1

end Sys2Proof.Config
end

