-- ==== Sys2Proof/Machine/State.lean ====
section
/-! DEFINITION. The state of the engine: every register and every piece of hidden state the spec gives it, plain data,
with the model's own environment beside it; the reasons a step can stop; and the state after reset. -/

namespace Sys2Proof.Machine

/-- A pair of integers (10_state.md R27). The point at infinity is the pair `(0, 0)` (00_scope.md R6). -/
structure Point where
  x : Int
  y : Int
  deriving DecidableEq, Repr

/-- The three curve registers as 64-bit patterns: a staging (10_state.md R16) or an active curve (10_state.md R15). -/
structure Curve where
  p : Word
  a : Word
  b : Word
  deriving DecidableEq, Repr

/-- The command word and the copies of registers latched at issue (10_state.md R23, R24). -/
structure Latched where
  cmd : Word
  x1 : Word
  y1 : Word
  x2 : Word
  y2 : Word
  k : Word
  cfg : Curve
  cur : Curve
  deriving DecidableEq, Repr

/-- SMUL's hidden accumulator point and bit index: `idx` bits of `k` are still to be processed (10_state.md R25,
43_scalar.md R130). -/
structure SmulLoop where
  acc : Point
  idx : Nat
  deriving DecidableEq, Repr

/-- The command in flight: it exists exactly while BUSY (10_state.md R22-R25; log entry 7). -/
structure Flight where
  /-- What issue latched. -/
  lat : Latched
  /-- The internal steps still to come before the completion step (40_control.md R81; log entry 3). -/
  left : Nat
  /-- SMUL's loop, once an internal step has started it (10_state.md R25; log entry 9). -/
  loop : Option SmulLoop
  deriving DecidableEq, Repr

/-- The errors a command can raise (60_exceptions.md R150, codes 1 to 4). -/
inductive Err where
  /-- 1 ILLEGAL (R156). -/
  | illegal
  /-- 2 CONFIG (R157). -/
  | config
  /-- 3 RANGE (R155). -/
  | range
  /-- 4 DIV_ZERO (R154). -/
  | divZero
  deriving DecidableEq, Repr

/-- The stored fields of STATUS (10_state.md R12). BUSY is the presence of a command in flight, and the reserved bits
read 0 and are not stored (log entries 7 and 8). -/
structure Status where
  done : Bool
  bool : Bool
  inf : Bool
  ovr : Bool
  /-- ERR; `none` is code 0. -/
  err : Option Err
  lastop : BitVec 4
  deriving DecidableEq, Repr

/-- The sequencer state (10_state.md R22). -/
inductive Seq where
  | idle
  | busy
  deriving DecidableEq, Repr

/-- The sixteen registers of the window (10_state.md R10). -/
inductive Reg where
  | cmd
  | status
  | ctrl
  | cfgP
  | cfgA
  | cfgB
  | curP
  | curA
  | curB
  | x1
  | y1
  | x2
  | y2
  | k
  | rx
  | ry
  deriving DecidableEq, Repr

/-- One host access to the window (20_memory.md R41-R43). A write carries its byte lanes, lowest address first, so its
width is how many there are (20_memory.md R44; log entry 12). -/
inductive Access where
  | read (off : Offset) (width : Nat)
  | write (off : Offset) (lanes : List Byte)
  deriving DecidableEq, Repr

/-- An OK response on the host's bus: read data as byte lanes, or the acknowledgement of a write (log entry 4). -/
inductive Reply where
  | data (lanes : List Byte)
  | written
  deriving DecidableEq, Repr

/-- Whose step comes next: one host access, one engine step, or reset (00_scope.md R8, 60_exceptions.md R164). -/
inductive Turn where
  | host (a : Access)
  | engine
  | reset
  deriving DecidableEq, Repr

/-- THE MODEL'S OWN FIELDS, no state of the engine: the turns to come, the last response on the bus, and how many
latencies have been drawn (log entries 1, 3 and 4). -/
structure Env where
  agenda : List Turn
  reply : Option Reply
  draws : Nat
  deriving DecidableEq, Repr

/-- What the completion of a successful command writes (30_encoding.md R66): `none` leaves a register unchanged. -/
structure Writes where
  rx : Option Word := none
  ry : Option Word := none
  bool : Bool := false
  inf : Bool := false
  cur : Option Curve := none
  deriving DecidableEq, Repr

/-- Why the machine stops. -/
inductive Fault where
  /-- Raised by a host access that gets an error response: a width other than 8 bytes, an offset that is no multiple of
  8, or an offset above 0x78, with the data a read gets (20_memory.md R43: "A model should treat an error response as a
  fault of the host's step"). Safe: the engine's state would not change (log entry 5). -/
  | errorResponse (a : Access) (data : List Byte)
  /-- Raised by a command's meaning asked for while BUSY = 0, when there is no latched command and no completion step
  (00_scope.md R8). Safe: `step` never asks so (log entry 6). -/
  | noCommandInFlight
  deriving DecidableEq, Repr

/-- Why the machine has no meaning for an instruction. -/
inductive Refusal where
  /-- Raised by an arm of `exec` whose command has no meaning yet: there is none. Safe: the machine stops. -/
  | notModelled (mnemonic : String)
  deriving DecidableEq, Repr


/-- The engine's state (10_state.md), and the model's own environment. -/
structure State where
  /-- STATUS, but for BUSY (10_state.md R12). -/
  status : Status
  /-- CTRL.IE (10_state.md R14). -/
  ie : Bool
  /-- CFG_P, CFG_A, CFG_B (10_state.md R16). -/
  cfg : Curve
  /-- CUR_P, CUR_A, CUR_B (10_state.md R15). -/
  cur : Curve
  /-- X1 (10_state.md R17). -/
  x1 : Word
  /-- Y1 (10_state.md R17). -/
  y1 : Word
  /-- X2 (10_state.md R17). -/
  x2 : Word
  /-- Y2 (10_state.md R17). -/
  y2 : Word
  /-- K (10_state.md R18). -/
  k : Word
  /-- RX (10_state.md R19). -/
  rx : Word
  /-- RY (10_state.md R19). -/
  ry : Word
  /-- `seq`, BUSY and everything held while BUSY (10_state.md R22-R25). -/
  flight : Option Flight
  /-- The model's own fields. -/
  env : Env
  deriving DecidableEq, Repr

/-- CKECC's default curve, the reset value of both curves (10_state.md R10, 00_scope.md R2). -/
def Curve.default : Curve := { p := 101, a := 35, b := 3 }

/-- The state after reset (10_state.md R10, 70_reset_and_hazards.md R180). The environment starts with nothing to come,
no response and no latency drawn (log entries 1, 3 and 4). -/
def State.reset : State where
  status := { done := false, bool := false, inf := false, ovr := false, err := none, lastop := 0 }
  ie := false
  cfg := Curve.default
  cur := Curve.default
  x1 := 0
  y1 := 0
  x2 := 0
  y2 := 0
  k := 0
  rx := 0
  ry := 0
  flight := none
  env := { agenda := [], reply := none, draws := 0 }

end Sys2Proof.Machine
end

