-- ==== Sys2Proof/Machine/Operands.lean ====
section
/-! DEFINITION. How a latched 64-bit pattern is read as an integer, which command reads which register, and the exact
integer arithmetic of the commands (00_scope.md §4, R3-R6; 30_encoding.md R64, R65; 40_control.md R85). -/

namespace Sys2Proof.Machine

/-- `sint64(v)`, two's complement (00_scope.md §4, R5; log entry 15). -/
def sint64 (v : Word) : Int := if v.toNat < 2 ^ 63 then (v.toNat : Int) else (v.toNat : Int) - 2 ^ 64

/-- `uint64(v)` (00_scope.md §4). -/
def uint64 (v : Word) : Int := (v.toNat : Int)

/-- `enc64(i)`, the pattern of `i mod 2^64` (00_scope.md §4). -/
def enc64 (i : Int) : Word := BitVec.ofInt 64 i

/-- `mod(x, m)`, the residue in `[0, m)` for `m > 0` (00_scope.md §4; for other `m` see log entry 10). -/
def mod (x m : Int) : Int := x % m

/-- The number of bits of `e`: the `n` with `2^(n-1) <= e < 2^n`, and 0 for 0 (43_scalar.md R130). -/
def bitLength (e : Nat) : Nat := if e = 0 then 0 else e.log2 + 1

/-- Square-and-multiply over the low bits of `e`, most significant first. -/
def powLoop (x : Int) (e : Nat) (m : Int) : Int → Nat → Int
  | acc, 0 => acc
  | acc, i + 1 =>
    powLoop x e m (if e.testBit i then mod (mod (acc * acc) m * x) m else mod (acc * acc) m) i

/-- `powmod(x, e, m) = mod(x^e, m)` (00_scope.md §4), by square-and-multiply so that it can be run; `powmod_eq` in
Sys2Proof/Laws/Arith.lean proves the equation. -/
def powmod (x : Int) (e : Nat) (m : Int) : Int := powLoop x e m (mod 1 m) (bitLength e)

/-- The active curve a command computes with, as integers `(p, a, b)` (10_state.md R24). -/
structure Params where
  p : Int
  a : Int
  b : Int
  deriving DecidableEq, Repr

/-- The three registers of a curve read as `uint64` (30_encoding.md R64). -/
def Curve.params (c : Curve) : Params := { p := uint64 c.p, a := uint64 c.a, b := uint64 c.b }

/-- `reduce(x) = mod(x, p)` (00_scope.md R4). -/
def reduce (c : Params) (x : Int) : Int := mod x c.p

/-- `canon(v)`: `0 <= sint64(v) < p` (00_scope.md §4). -/
def canon (c : Params) (v : Word) : Bool := decide (0 ≤ sint64 v) && decide (sint64 v < c.p)

/-- `INF`, the pair `(0, 0)` (00_scope.md R6). -/
def Point.inf : Point := { x := 0, y := 0 }

/-- The literal test "is point at infinity" (00_scope.md R6). -/
def Point.isInf (P : Point) : Bool := decide (P.x = 0) && decide (P.y = 0)

/-- The active curve latched at issue (10_state.md R24). -/
def Latched.params (l : Latched) : Params := l.cur.params

/-- The field operand of RED and INV: `sint64(lat.X1)` (30_encoding.md R65). -/
def Latched.fieldOperand (l : Latched) : Int := sint64 l.x1

/-- The first point: `(sint64(lat.X1), sint64(lat.Y1))` (30_encoding.md R65). -/
def Latched.point1 (l : Latched) : Point := { x := sint64 l.x1, y := sint64 l.y1 }

/-- The second point, of ADD: `(sint64(lat.X2), sint64(lat.Y2))` (30_encoding.md R65). -/
def Latched.point2 (l : Latched) : Point := { x := sint64 l.x2, y := sint64 l.y2 }

/-- The scalar of SMUL: `uint64(lat.K)` (10_state.md R18, 30_encoding.md R65). -/
def Latched.scalar (l : Latched) : Nat := l.k.toNat

/-- The staging curve as CONFIG reads it (40_control.md R84). -/
def Latched.staging (l : Latched) : Params := l.cfg.params

/-- Both coordinates of the first point are canonical (42_point.md R106). -/
def Latched.canon1 (l : Latched) : Bool := canon l.params l.x1 && canon l.params l.y1

/-- Both coordinates of the second point are canonical (42_point.md R106). -/
def Latched.canon2 (l : Latched) : Bool := canon l.params l.x2 && canon l.params l.y2

/-- The eleven register copies, in the order of 10_state.md R24. -/
def Latched.copies (l : Latched) : List Word :=
  [l.x1, l.y1, l.x2, l.y2, l.k, l.cfg.p, l.cfg.a, l.cfg.b, l.cur.p, l.cur.a, l.cur.b]

/-- `cfg_valid(p, a, b)` (40_control.md R85). -/
def cfgValid (c : Params) : Bool :=
  decide (Config.pMin ≤ c.p) && decide (c.p ≤ Config.pMax) && decide (mod c.p 2 = 1) &&
    decide (0 ≤ c.a) && decide (c.a < c.p) && decide (1 ≤ c.b) && decide (c.b < c.p)

end Sys2Proof.Machine
end

