-- ==== Sys2Proof/Machine/Flags.lean ====
section
/-! DEFINITION. STATUS as a word, its write-one-to-clear, CTRL, the INF flag and the interrupt output (10_state.md
R12-R14, R21, R22; 60_exceptions.md R150, R162). -/

namespace Sys2Proof.Machine

/-- The code of an error (60_exceptions.md R150). -/
def Err.code : Err → BitVec 4
  | .illegal => 1
  | .config => 2
  | .range => 3
  | .divZero => 4

/-- The ERR field: 0 is NONE (60_exceptions.md R150). -/
def errField : Option Err → BitVec 4
  | none => 0
  | some e => e.code

/-- `seq`, which always equals BUSY (10_state.md R22). -/
def State.seq (s : State) : Seq := if s.flight.isSome then .busy else .idle

/-- STATUS.BUSY (10_state.md R12, R22). -/
def State.busy (s : State) : Bool := s.flight.isSome

/-- STATUS as the host reads it: LASTOP 15:12, ERR 11:8, OVR 4, INF 3, BOOL 2, DONE 1, BUSY 0, every other bit 0
(10_state.md R12). -/
def State.statusWord (s : State) : Word :=
  (0 : BitVec 48) ++ s.status.lastop ++ errField s.status.err ++ (0 : BitVec 3) ++ BitVec.ofBool s.status.ovr ++
    BitVec.ofBool s.status.inf ++ BitVec.ofBool s.status.bool ++ BitVec.ofBool s.status.done ++ BitVec.ofBool s.busy

/-- CTRL as the host reads it: IE in bit 0, every other bit 0 (10_state.md R14). -/
def State.ctrlWord (s : State) : Word := (0 : BitVec 63) ++ BitVec.ofBool s.ie

/-- A host write of `w` to STATUS: DONE is cleared by bit 1 unless BUSY, OVR by bit 4 (10_state.md R13). -/
def State.ackStatus (s : State) (w : Word) : State :=
  { s with
    status :=
      { s.status with
        done := if w.getLsbD 1 && !s.busy then false else s.status.done
        ovr := if w.getLsbD 4 then false else s.status.ovr } }

/-- A host write of `w` to CTRL: only IE is stored (10_state.md R14, 20_memory.md R42). -/
def State.writeCtrl (s : State) (w : Word) : State := { s with ie := w.getLsbD 0 }

/-- The INF flag of a point command's result: the literal test on the coordinates (42_point.md R103, R108). -/
def infFlag (P : Point) : Bool := P.isInf

/-- `IRQ = DONE AND IE` (60_exceptions.md R162). -/
def State.irq (s : State) : Bool := s.status.done && s.ie

/-- The level of host interrupt line `n` as far as the engine drives it: `IRQ` on the line it is wired to (00_scope.md
R2, 60_exceptions.md R162; log entry 13). -/
def State.drivesLine (s : State) (n : Nat) : Bool := decide (n = Config.irqLine) && s.irq

end Sys2Proof.Machine
end

