-- ==== Sys2Proof/Machine/Ops.lean ====
section
/-! DEFINITION. The named operations over the state: issue, completion with its result or its error, the register
file, reset, the agenda and the reply (40_control.md R80, R82; 60_exceptions.md R152, R159, R161; 20_memory.md R41,
R42; 70_reset_and_hazards.md R180). -/

namespace Sys2Proof.Machine

/-- The copies issue takes, with the command word (10_state.md R23, R24). -/
def State.latch (s : State) (w : Word) : Latched :=
  { cmd := w, x1 := s.x1, y1 := s.y1, x2 := s.x2, y2 := s.y2, k := s.k, cfg := s.cfg, cur := s.cur }

/-- Issue of `w` with `left` internal steps before its completion step: BUSY is set, DONE, BOOL, INF and ERR are
cleared, LASTOP is `w[3:0]`, nothing else changes; `w` is not checked (40_control.md R80). Accepting the next command is
also the return from an error (60_exceptions.md R161). -/
def State.issueWith (s : State) (left : Nat) (w : Word) : State :=
  { s with
    flight := some { lat := s.latch w, left := left, loop := none }
    status :=
      { s.status with done := false, bool := false, inf := false, err := none, lastop := opcodeField w } }

/-- Issue of `w`, with a drawn latency (40_control.md R80, R81; log entry 3). -/
def State.issue (s : State) (w : Word) : State :=
  let left := Config.internalSteps s.env.draws w (s.latch w).copies
  { s.issueWith left w with env := { s.env with draws := s.env.draws + 1 } }

/-- A host write of `w` to CMD: issued when not BUSY, else dropped and recorded in OVR (10_state.md R11,
60_exceptions.md R159). -/
def State.writeCmd (s : State) (w : Word) : State :=
  if s.busy then { s with status := { s.status with ovr := true } } else s.issue w

/-- The completion step's write-back, one atomic update: BUSY cleared and DONE set, and on success the results written
and ERR cleared; on an error only ERR, everything else unchanged (40_control.md R82, 30_encoding.md R66,
60_exceptions.md R152). -/
def State.complete (s : State) : Except Err Writes → State
  | .ok w =>
    { s with
      rx := w.rx.getD s.rx
      ry := w.ry.getD s.ry
      cur := w.cur.getD s.cur
      status := { s.status with bool := w.bool, inf := w.inf, err := none, done := true }
      flight := none }
  | .error e => { s with status := { s.status with err := some e, done := true }, flight := none }

/-- The completion step of the command in flight with the outcome `run` computes from it; without a command in flight
there is no completion step (00_scope.md R8, 40_control.md R82; log entry 6). -/
def completing (s : State) (run : Flight → Except Err Writes) : Host.Outcome State Fault Refusal :=
  match s.flight with
  | some f => .next (s.complete (run f))
  | none => .fault .noCommandInFlight

/-- The result of a point command: both coordinates and the INF flag (42_point.md R103, R105; 43_scalar.md R131). -/
def pointWrites (P : Point) : Writes :=
  { rx := some (enc64 P.x), ry := some (enc64 P.y), inf := infFlag P }

/-- The outcome of a point command: its result, or the error its arithmetic raised (00_scope.md R7). -/
def pointOutcome : Except Err Point → Except Err Writes
  | .ok P => .ok (pointWrites P)
  | .error e => .error e

/-- The window offset of a register (10_state.md R10). -/
def Reg.offset : Reg → Offset
  | .cmd => 0x00
  | .status => 0x08
  | .ctrl => 0x10
  | .cfgP => 0x18
  | .cfgA => 0x20
  | .cfgB => 0x28
  | .curP => 0x30
  | .curA => 0x38
  | .curB => 0x40
  | .x1 => 0x48
  | .y1 => 0x50
  | .x2 => 0x58
  | .y2 => 0x60
  | .k => 0x68
  | .rx => 0x70
  | .ry => 0x78

/-- The register at a window offset; none at a reserved one (10_state.md R10, R20). -/
def Reg.ofOffset (off : Offset) : Option Reg :=
  match off.toNat with
  | 0x00 => some .cmd
  | 0x08 => some .status
  | 0x10 => some .ctrl
  | 0x18 => some .cfgP
  | 0x20 => some .cfgA
  | 0x28 => some .cfgB
  | 0x30 => some .curP
  | 0x38 => some .curA
  | 0x40 => some .curB
  | 0x48 => some .x1
  | 0x50 => some .y1
  | 0x58 => some .x2
  | 0x60 => some .y2
  | 0x68 => some .k
  | 0x70 => some .rx
  | 0x78 => some .ry
  | _ => none

/-- What a host read of a register returns (20_memory.md R41; CMD reads 0, 10_state.md R11). -/
def readReg (s : State) : Reg → Word
  | .cmd => 0
  | .status => s.statusWord
  | .ctrl => s.ctrlWord
  | .cfgP => s.cfg.p
  | .cfgA => s.cfg.a
  | .cfgB => s.cfg.b
  | .curP => s.cur.p
  | .curA => s.cur.a
  | .curB => s.cur.b
  | .x1 => s.x1
  | .y1 => s.y1
  | .x2 => s.x2
  | .y2 => s.y2
  | .k => s.k
  | .rx => s.rx
  | .ry => s.ry

/-- What a host write of a register does; a write to a read-only register has no effect (20_memory.md R42). -/
def writeReg (s : State) (r : Reg) (v : Word) : State :=
  match r with
  | .cmd => s.writeCmd v
  | .status => s.ackStatus v
  | .ctrl => s.writeCtrl v
  | .cfgP => { s with cfg := { s.cfg with p := v } }
  | .cfgA => { s with cfg := { s.cfg with a := v } }
  | .cfgB => { s with cfg := { s.cfg with b := v } }
  | .x1 => { s with x1 := v }
  | .y1 => { s with y1 := v }
  | .x2 => { s with x2 := v }
  | .y2 => { s with y2 := v }
  | .k => { s with k := v }
  | .curP => s
  | .curA => s
  | .curB => s
  | .rx => s
  | .ry => s

/-- The reset step: every register at its reset value and everything in flight discarded (70_reset_and_hazards.md R180,
R182). The environment is not the engine's and stays (log entry 4). -/
def resetTurn (s : State) : State := { State.reset with env := s.env }

/-- The response of an accepted access on the bus (log entry 4). -/
def State.withReply (s : State) (r : Reply) : State := { s with env := { s.env with reply := some r } }

/-- The agenda replaced (log entry 1). -/
def State.withAgenda (s : State) (ts : List Turn) : State := { s with env := { s.env with agenda := ts } }

/-- Whose turn is next, and the state with that turn taken from the agenda; with nothing to come from outside, the
engine's (60_exceptions.md R164, 70_reset_and_hazards.md R193; log entries 1 and 2). -/
def State.popTurn (s : State) : Turn × State :=
  match s.env.agenda with
  | [] => (.engine, s)
  | t :: ts => (t, s.withAgenda ts)

end Sys2Proof.Machine
end

