-- ==== Sys2Proof/Machine/Bus.lean ====
section
/-! DEFINITION. The host's accesses to the register window (20_memory.md R40-R46). -/

namespace Sys2Proof.Machine

/-- The window offset of an access. -/
def Access.off : Access → Offset
  | .read off _ => off
  | .write off _ => off

/-- The width of an access in bytes: of a write, how many lanes it carries (log entry 12). -/
def Access.width : Access → Nat
  | .read _ width => width
  | .write _ lanes => lanes.length

/-- The register an access reaches: only an access of 8 bytes at the offset of a register reaches one; any other gets
an error response (20_memory.md R41-R43). -/
def Access.target (a : Access) : Option Reg := if a.width = 8 then Reg.ofOffset a.off else none

/-- The offset of a host address in the window, if it is in the window (20_memory.md R40; log entry 13). -/
def windowOffset (addr : Nat) : Option Offset :=
  if Config.engineBase ≤ addr ∧ addr < Config.engineBase + Config.windowSize then
    some (BitVec.ofNat 8 (addr - Config.engineBase))
  else none

/-- The host address of byte lane `i` of the register at `off` (20_memory.md R44). -/
def laneAddress (off : Offset) (i : Nat) : Nat := Config.engineBase + off.toNat + i

/-- The effect and the response of an access that reaches register `r` (20_memory.md R41, R42). -/
def access (s : State) (r : Reg) : Access → State
  | .read _ _ => s.withReply (.data (lanesOf (readReg s r)))
  | .write _ lanes => (writeReg s r (ofLanes lanes)).withReply .written

/-- The data of an error response: a read gets 0 (20_memory.md R43). -/
def Access.errorData : Access → List Byte
  | .read _ width => List.replicate width 0
  | .write _ _ => []

/-- The host's step: the access takes effect, or gets an error response and the host's step faults (20_memory.md R43;
log entry 5). -/
def hostTurn (a : Access) (s : State) : Host.Outcome State Fault Refusal :=
  match a.target with
  | some r => .next (access s r a)
  | none => .fault (.errorResponse a a.errorData)

end Sys2Proof.Machine
end

