-- ==== Sys2Proof/Machine/Control.lean ====
section
/-! DEFINITION. The control commands NOP and CONFIG (40_control.md R83, R84). -/

namespace Sys2Proof.Machine

/-- NOP's outcome: success with no writes (40_control.md R83). -/
def nopOutcome : Except Err Writes := .ok {}

/-- NOP: it changes no data register and still completes, so BOOL, INF and ERR are cleared and DONE rises
(40_control.md R83). -/
def execNop (s : State) : Host.Outcome State Fault Refusal := completing s fun _ => nopOutcome

/-- CONFIG's outcome: the latched staging curve becomes the active one if it is legal, else the error CONFIG
(40_control.md R84, R85; 60_exceptions.md R157). -/
def configOutcome (l : Latched) : Except Err Writes :=
  if cfgValid l.staging then .ok { cur := some l.cfg } else .error .config

/-- CONFIG (40_control.md R84). -/
def execConfig (s : State) : Host.Outcome State Fault Refusal := completing s fun f => configOutcome f.lat

end Sys2Proof.Machine
end

