-- ==== Sys2Proof/Machine/Field.lean ====
section
/-! DEFINITION. The modular_inverse_engine: RED and INV, and the field inverse that DBL and ADD use too (41_field.md). -/

namespace Sys2Proof.Machine

/-- `fe_inv(v)`: DIV_ZERO for a value that reduces to 0, else `reduce(v)^(p-2) mod p` (41_field.md R91). -/
def feInv (c : Params) (v : Int) : Except Err Int :=
  if reduce c v = 0 then .error .divZero else .ok (powmod (reduce c v) (c.p - 2).toNat c.p)

/-- RED's outcome (41_field.md R90). -/
def redOutcome (l : Latched) : Except Err Writes :=
  .ok { rx := some (enc64 (reduce l.params l.fieldOperand)) }

/-- RED: RX gets the canonical residue of X1 (41_field.md R90). -/
def execRed (s : State) : Host.Outcome State Fault Refusal := completing s fun f => redOutcome f.lat

/-- INV's outcome (41_field.md R92). -/
def invOutcome (l : Latched) : Except Err Writes :=
  match feInv l.params l.fieldOperand with
  | .ok r => .ok { rx := some (enc64 r) }
  | .error e => .error e

/-- INV: RX gets the field inverse of X1, or DIV_ZERO (41_field.md R92, R94). -/
def execInv (s : State) : Host.Outcome State Fault Refusal := completing s fun f => invOutcome f.lat

end Sys2Proof.Machine
end

