-- ==== Sys2Proof/Machine/Point.lean ====
section
/-! DEFINITION. The curve_membership_checker, the ecc_point_doubler and the ecc_point_adder: ONCURVE, DBL and ADD
(42_point.md). -/

namespace Sys2Proof.Machine

/-- `pt_oncurve(x, y)`: the sentinel literally, else the curve equation (42_point.md R100; 90_conflicts.md C1, C2). -/
def ptOnCurve (c : Params) (P : Point) : Bool :=
  if P.isInf then true
  else decide (reduce c (P.y * P.y) = reduce c (P.x * P.x * P.x + c.a * P.x + c.b))

/-- The third point of the line of slope `lam` through `(x1, y1)` and a point of abscissa `x2` (42_point.md R102 with
`x2 = x1`, R104). -/
def chord (c : Params) (lam x1 y1 x2 : Int) : Point :=
  let x3 := reduce c (lam * lam - x1 - x2)
  { x := x3, y := reduce c (lam * (x1 - x3) - y1) }

/-- The slope `mod(num * fe_inv(den), p)` with `num` reduced (42_point.md R102, R104). -/
def lineSlope (c : Params) (num den : Int) : Except Err Int :=
  match feInv c den with
  | .ok i => .ok (mod (reduce c num * i) c.p)
  | .error e => .error e

/-- `pt_double(x, y)` (42_point.md R102). -/
def ptDouble (c : Params) (P : Point) : Except Err Point :=
  if P.isInf then .ok Point.inf
  else if P.y = 0 then .ok Point.inf
  else
    match lineSlope c (3 * P.x * P.x + c.a) (2 * P.y) with
    | .ok lam => .ok (chord c lam P.x P.y P.x)
    | .error e => .error e

/-- `pt_add(x1, y1, x2, y2)` (42_point.md R104). -/
def ptAdd (c : Params) (P Q : Point) : Except Err Point :=
  if P.isInf then .ok Q
  else if Q.isInf then .ok P
  else if P.x = Q.x ∧ P.y = Q.y then ptDouble c P
  else if P.x = Q.x then .ok Point.inf
  else
    match lineSlope c (Q.y - P.y) (Q.x - P.x) with
    | .ok lam => .ok (chord c lam P.x P.y Q.x)
    | .error e => .error e

/-- ONCURVE's outcome: the membership test is a result, never an error (42_point.md R101). -/
def onCurveOutcome (l : Latched) : Except Err Writes := .ok { bool := ptOnCurve l.params l.point1 }

/-- ONCURVE (42_point.md R101). -/
def execOnCurve (s : State) : Host.Outcome State Fault Refusal := completing s fun f => onCurveOutcome f.lat

/-- DBL's outcome: RANGE unless both coordinates are canonical, before anything else (42_point.md R103, R106). -/
def dblOutcome (l : Latched) : Except Err Writes :=
  if l.canon1 then pointOutcome (ptDouble l.params l.point1) else .error .range

/-- DBL (42_point.md R103). -/
def execDbl (s : State) : Host.Outcome State Fault Refusal := completing s fun f => dblOutcome f.lat

/-- ADD's outcome: RANGE unless all four coordinates are canonical, before anything else (42_point.md R105, R106). -/
def addOutcome (l : Latched) : Except Err Writes :=
  if l.canon1 && l.canon2 then pointOutcome (ptAdd l.params l.point1 l.point2) else .error .range

/-- ADD (42_point.md R105). -/
def execAdd (s : State) : Host.Outcome State Fault Refusal := completing s fun f => addOutcome f.lat

end Sys2Proof.Machine
end

