-- ==== Sys2Proof/Machine/Scalar.lean ====
section
/-! DEFINITION. The ecc_scalar_multiplier: SMUL, its hidden loop and the loop's internal steps (43_scalar.md;
10_state.md R25). -/

namespace Sys2Proof.Machine

/-- One iteration of SMUL's loop: double the accumulator, and when the bit is 1 add `P`, with CKECC's special case for
an accumulator at infinity (43_scalar.md R130). -/
def smulIter (c : Params) (P acc : Point) (bit : Bool) : Except Err Point :=
  match ptDouble c acc with
  | .error e => .error e
  | .ok d => if bit then (if d.isInf then .ok P else ptAdd c d P) else .ok d

/-- The loop from an accumulator with the low `i` bits of `k` still to be processed, most significant first
(43_scalar.md R130). -/
def smulLoop (c : Params) (P : Point) (k : Nat) : Point → Nat → Except Err Point
  | acc, 0 => .ok acc
  | acc, i + 1 =>
    match smulIter c P acc (k.testBit i) with
    | .error e => .error e
    | .ok acc' => smulLoop c P k acc' i

/-- `pt_smul(x, y, k)`: the accumulator is seeded from the leading bit, which is 1 (43_scalar.md R130). -/
def ptSmul (c : Params) (P : Point) (k : Nat) : Except Err Point :=
  if k = 0 then .ok Point.inf
  else if k = 1 then .ok P
  else smulLoop c P k P (bitLength k - 1)

/-- SMUL's result at completion: the whole of `pt_smul`, or what remains of it once internal steps have begun it
(43_scalar.md R130, R131; 10_state.md R25; log entry 9). -/
def smulFinish (f : Flight) : Except Err Point :=
  match f.loop with
  | none => ptSmul f.lat.params f.lat.point1 f.lat.scalar
  | some l => smulLoop f.lat.params f.lat.point1 f.lat.scalar l.acc l.idx

/-- SMUL's outcome: RANGE unless both coordinates are canonical, before anything else (43_scalar.md R131, 42_point.md
R106). -/
def smulOutcome (f : Flight) : Except Err Writes :=
  if f.lat.canon1 then pointOutcome (smulFinish f) else .error .range

/-- SMUL (43_scalar.md R131). -/
def execSmul (s : State) : Host.Outcome State Fault Refusal := completing s smulOutcome

/-- What one internal step does to SMUL's loop: it seeds the accumulator, then runs an iteration at a time; an iteration
that would raise an error is left to the completion step (10_state.md R25, 43_scalar.md R130; log entry 9). -/
def smulAdvance (l : Latched) : Option SmulLoop → Option SmulLoop
  | none => if l.canon1 && decide (2 ≤ l.scalar) then some ⟨l.point1, bitLength l.scalar - 1⟩ else none
  | some ⟨acc, 0⟩ => some ⟨acc, 0⟩
  | some ⟨acc, i + 1⟩ =>
    match smulIter l.params l.point1 acc (l.scalar.testBit i) with
    | .ok acc' => some ⟨acc', i⟩
    | .error _ => some ⟨acc, i + 1⟩

/-- One internal engine step, with `left` more to come: only hidden state moves (00_scope.md R8, 10_state.md R25). -/
def Flight.advance (f : Flight) (left : Nat) : Flight :=
  { f with
    left := left
    loop := if decodeWord f.lat.cmd = .ok .smul then smulAdvance f.lat f.loop else f.loop }

end Sys2Proof.Machine
end

