-- ==== Sys2Proof/Machine/Dispatch.lean ====
section
/-! DEFINITION. Which meaning each command has: the case split of `execute` (40_control.md R82). -/

namespace Sys2Proof.Machine

def exec (i : Instr) (s : State) : Host.Outcome State Fault Refusal :=
  match i with
  | .nop => Sys2Proof.Machine.execNop s
  | .config => Sys2Proof.Machine.execConfig s
  | .red => Sys2Proof.Machine.execRed s
  | .inv => Sys2Proof.Machine.execInv s
  | .onCurve => Sys2Proof.Machine.execOnCurve s
  | .dbl => Sys2Proof.Machine.execDbl s
  | .add => Sys2Proof.Machine.execAdd s
  | .smul => Sys2Proof.Machine.execSmul s

end Sys2Proof.Machine
end

