-- ==== Sys2Proof/Machine/Engine.lean ====
section
/-! DEFINITION. The engine's step, internal or completion, and the step of each agent (00_scope.md R8; 40_control.md
R81, R82; 60_exceptions.md R156, R164). -/

namespace Sys2Proof.Machine

/-- The completion step: the latched word is decoded; a valid one is executed, and an illegal one completes with ERR =
ILLEGAL and executes nothing (40_control.md R82, 60_exceptions.md R156). -/
def completionStep (s : State) (f : Flight) : Host.Outcome State Fault Refusal :=
  match decodeWord f.lat.cmd with
  | .ok i => exec i s
  | .error _ => .next (s.complete (.error .illegal))

/-- An internal step of the busy interval, with `left` more to come (40_control.md R81, 10_state.md R25). -/
def internalStep (s : State) (f : Flight) (left : Nat) : State := { s with flight := some (f.advance left) }

/-- The engine's step: nothing when idle, else an internal step or, when none is left, the completion step (00_scope.md
R8, 60_exceptions.md R170; log entries 2 and 3). -/
def engineTurn (s : State) : Host.Outcome State Fault Refusal :=
  match s.flight with
  | none => .next s
  | some f =>
    match f.left with
    | left + 1 => .next (internalStep s f left)
    | 0 => completionStep s f

/-- The step of whichever agent has the turn (60_exceptions.md R164). -/
def takeTurn (t : Turn) (s : State) : Host.Outcome State Fault Refusal :=
  match t with
  | .host a => hostTurn a s
  | .engine => engineTurn s
  | .reset => .next (resetTurn s)

end Sys2Proof.Machine
end

