-- ==== Sys2Proof/Machine/Step.lean ====
section
/-! DEFINITION. One step of the machine: the next turn of the agenda is taken by its agent (60_exceptions.md R164). -/

namespace Sys2Proof.Machine

/-- One step: a host access, an engine step or reset, each atomic (60_exceptions.md R164). -/
def step (s : State) : Host.Outcome State Fault Refusal := takeTurn s.popTurn.1 s.popTurn.2

/-- `s` with the command word whose low `nbits` bits are `w` (every bit above them 0) just issued, no internal step left
and the engine's turn next: the very next step is that command's completion step. The engine fetches no instructions
(20_memory.md R50); a command is placed by its issue (40_control.md R80; log entry 11). -/
def State.withFetchWord (s : State) (nbits w : Nat) : State :=
  (s.issueWith 0 (BitVec.ofNat 64 (w % 2 ^ nbits))).withAgenda (.engine :: s.env.agenda)

end Sys2Proof.Machine
end

