-- ==== Sys2Proof/Machine/Notation.lean ====
section
/-! DEFINITION. The host program forms of 30_encoding.md R68 and R69, as the turns they put on the agenda. -/

namespace Sys2Proof.Machine

/-- A value of the forms: a decimal or hex integer, a negative one its two's-complement pattern (R68). -/
def hostValue (v : Int) : Word := BitVec.ofInt 64 v

/-- `WR <reg>, <value>` (R68). -/
def wr (r : Reg) (v : Int) : Turn := .host (.write r.offset (lanesOf (hostValue v)))

/-- `RD <reg>` (R68). -/
def rd (r : Reg) : Turn := .host (.read r.offset 8)

/-- `CMD <mnemonic>` (R68). -/
def cmd (i : Instr) : Turn := .host (.write Reg.cmd.offset (encodeBytes i))

/-- `WAIT` whose poll loop reads STATUS `n` times (R69: a finite number; log entry 1). -/
def wait (n : Nat) : List Turn := List.replicate n (rd .status)

/-- `RUN <mnemonic>` with `n` polls (R69). -/
def run (i : Instr) (n : Nat) : List Turn := cmd i :: wait n

/-- `ACK` (R69). -/
def ack : Turn := wr .status 0x2

/-- `CLROVR` (R69). -/
def clrOvr : Turn := wr .status 0x10

/-- `LDPT1 x, y` (R69). -/
def ldPt1 (x y : Int) : List Turn := [wr .x1 x, wr .y1 y]

/-- `LDPT2 x, y` (R69). -/
def ldPt2 (x y : Int) : List Turn := [wr .x2 x, wr .y2 y]

/-- `LDCURVE p, a, b` with `n` polls (R69). -/
def ldCurve (p a b : Int) (n : Nat) : List Turn := [wr .cfgP p, wr .cfgA a, wr .cfgB b] ++ run .config n

end Sys2Proof.Machine
end

