-- ==== Sys2Proof/Safety.lean ====
section
/-! DEFINITION. The terms claims are stated in: what the host can observe, a canonical point, the invariant of the
machine, and SMUL's sequence of point operations. -/

namespace Sys2Proof.Machine

/-- Nothing the host can observe differs: every register reads the same and IRQ has the same level (10_state.md R10,
R21). -/
def SameToHost (s t : State) : Prop := (∀ r : Reg, readReg t r = readReg s r) ∧ t.irq = s.irq

/-- `s` after a completion that succeeds with these results: BUSY and ERR are 0, DONE is 1, and nothing but the fields
named here differs (40_control.md R82, 30_encoding.md R66). -/
def State.succeededWith (s : State) (rx ry : Word) (cur : Curve) (bool inf : Bool) : State :=
  { s with
    rx := rx
    ry := ry
    cur := cur
    status := { s.status with bool := bool, inf := inf, err := none, done := true }
    flight := none }

/-- `s` after a completion that fails with `e`: ERR is the code, BUSY is 0, DONE is 1, and nothing else differs
(60_exceptions.md R152). -/
def State.failedWith (s : State) (e : Err) : State :=
  { s with status := { s.status with err := some e, done := true }, flight := none }

/-- Both coordinates are canonical residues, in `[0, p)` (00_scope.md §5). -/
def Point.Canonical (c : Params) (P : Point) : Prop := 0 ≤ P.x ∧ P.x < c.p ∧ 0 ≤ P.y ∧ P.y < c.p

/-- The curve equation `y² = x³ + a·x + b (mod p)` (00_scope.md §5). -/
def Point.OnCurve (c : Params) (P : Point) : Prop :=
  (P.y * P.y) % c.p = (P.x * P.x * P.x + c.a * P.x + c.b) % c.p

/-- SMUL's loop, once begun, belongs to an SMUL of canonical operands and `k >= 2`, and what remains of it gives the
result of `pt_smul` (10_state.md R25, 43_scalar.md R130). -/
structure Flight.LoopConsistent (f : Flight) (l : SmulLoop) : Prop where
  isSmul : decodeWord f.lat.cmd = .ok .smul
  canonical : f.lat.canon1 = true
  scalar : 2 ≤ f.lat.scalar
  idx : l.idx < bitLength f.lat.scalar
  rest : smulLoop f.lat.params f.lat.point1 f.lat.scalar l.acc l.idx =
    ptSmul f.lat.params f.lat.point1 f.lat.scalar

/-- What holds of a command in flight: the active curve is the one latched, issue's flags stand, LASTOP is the latched
OPCODE, and SMUL's loop is consistent (40_control.md R80, R81). -/
structure State.InFlight (s : State) (f : Flight) : Prop where
  curve : f.lat.cur = s.cur
  done : s.status.done = false
  bool : s.status.bool = false
  inf : s.status.inf = false
  err : s.status.err = none
  lastop : s.status.lastop = opcodeField f.lat.cmd
  loop : ∀ l, f.loop = some l → f.LoopConsistent l

/-- LASTOP of a point command: DBL, ADD or SMUL (30_encoding.md R61). -/
def isPointOp (op : BitVec 4) : Prop := op = 5 ∨ op = 6 ∨ op = 7

/-- Which command can have left an error (60_exceptions.md R150, R154): CONFIG only CONFIG's, RANGE a point command's,
DIV_ZERO only INV's. -/
def errAgrees (op : BitVec 4) : Option Err → Prop
  | none => True
  | some .illegal => True
  | some .config => op = 1
  | some .range => isPointOp op
  | some .divZero => op = 3

/-- The invariant of the machine: the active curve is legal (10_state.md R15), the results are non-negative as
`sint64` (R19), BOOL, INF and ERR agree with LASTOP and with the result registers (R12, 60_exceptions.md R150), and a
command in flight is consistent. -/
structure State.Inv (s : State) : Prop where
  curve : cfgValid s.cur.params = true
  rx : s.rx.toNat < 2 ^ 63
  ry : s.ry.toNat < 2 ^ 63
  bool : s.status.bool = true → s.status.lastop = 4 ∧ s.status.err = none
  inf : s.status.inf = true →
    isPointOp s.status.lastop ∧ s.status.err = none ∧ s.rx = 0 ∧ s.ry = 0
  infIff : s.flight = none → isPointOp s.status.lastop → s.status.err = none →
    s.rx = 0 → s.ry = 0 → s.status.inf = true
  err : errAgrees s.status.lastop s.status.err
  flight : ∀ f, s.flight = some f → s.InFlight f

/-- An operation of SMUL on its accumulator (43_scalar.md R133). -/
inductive PointOp where
  | double
  | addBase
  deriving DecidableEq, Repr

/-- The operations of SMUL for the low `i` bits of `k`, most significant first: a doubling per bit and an addition per
bit that is 1 (43_scalar.md R130). -/
def smulOps (k : Nat) : Nat → List PointOp
  | 0 => []
  | i + 1 => .double :: (if k.testBit i then .addBase :: smulOps k i else smulOps k i)

/-- One operation on the accumulator: a `pt_double`, or an addition of `P`, which is a `pt_add` or the special case
(43_scalar.md R130, R133). -/
def PointOp.apply (c : Params) (P acc : Point) : PointOp → Except Err Point
  | .double => ptDouble c acc
  | .addBase => if acc.isInf then .ok P else ptAdd c acc P

/-- A sequence of operations on the accumulator, ending at the first error. -/
def runOps (c : Params) (P : Point) : Point → List PointOp → Except Err Point
  | acc, [] => .ok acc
  | acc, op :: ops =>
    match op.apply c P acc with
    | .ok acc' => runOps c P acc' ops
    | .error e => .error e

/-- The number of 1 bits among the low `n` bits of `k` (43_scalar.md R133). -/
def popcount (k : Nat) : Nat → Nat
  | 0 => 0
  | n + 1 => popcount k n + if k.testBit n then 1 else 0

end Sys2Proof.Machine
end

