-- ==== Sys2Proof/Certificates/Slice0/Obligations.lean ====
section
/-! DEFINITION. The statements for the provers, from the numbered rules of spec/. `takeTurn t s` is one step of the
agent whose turn `t` is (00_scope.md R8); `StepTakesTheNextTurn` says that `step` is that for the next turn of the agenda.
`f` is the command in flight, and `env` is the model's own part of the state, of which the spec says nothing. -/

open Sys2Proof Sys2Proof.Machine

/-! ### The command word -/

/-- R61: the valid command words, as bytes in lane order, decode to the commands of the table. -/
def Obligations.CommandBytesDecode : Prop :=
  decodeBytes [0x00, 0, 0, 0, 0, 0, 0, 0] = .ok (.nop, []) ∧
  decodeBytes [0x01, 0, 0, 0, 0, 0, 0, 0] = .ok (.config, []) ∧
  decodeBytes [0x03, 0, 0, 0, 0, 0, 0, 0] = .ok (.inv, []) ∧
  decodeBytes [0x04, 0, 0, 0, 0, 0, 0, 0] = .ok (.onCurve, []) ∧
  decodeBytes [0x07, 0, 0, 0, 0, 0, 0, 0] = .ok (.smul, []) ∧
  decodeBytes [0x07, 0, 0, 0, 0, 0, 0, 0x80] = .error .reservedBits ∧
  decodeBytes [0x08, 0, 0, 0, 0, 0, 0, 0] = .error .reservedOpcode

/-- R61: which of the 2^64 words is which command, and that every other word is no command. -/
def Obligations.OpcodeMap : Prop :=
  ∀ w : Word,
    (decodeWord w = .ok .nop ↔ w.toNat = 0) ∧ (decodeWord w = .ok .config ↔ w.toNat = 1) ∧
    (decodeWord w = .ok .red ↔ w.toNat = 2) ∧ (decodeWord w = .ok .inv ↔ w.toNat = 3) ∧
    (decodeWord w = .ok .onCurve ↔ w.toNat = 4) ∧ (decodeWord w = .ok .dbl ↔ w.toNat = 5) ∧
    (decodeWord w = .ok .add ↔ w.toNat = 6) ∧ (decodeWord w = .ok .smul ↔ w.toNat = 7) ∧
    ((∃ r, decodeWord w = .error r) ↔ 8 ≤ w.toNat)

/-- R60, R61, R67: decoding undoes encoding, on words and on bytes with anything after them; and a word that decodes to
a command is that command's only encoding. -/
def Obligations.DecodeEncodeAgree : Prop :=
  (∀ (i : Instr) (rest : List Byte), i.wellFormed = true → decodeBytes (encodeBytes i ++ rest) = .ok (i, rest)) ∧
  (∀ (w : Word) (i : Instr), decodeWord w = .ok i ↔ w = encode i) ∧
  (∀ w : Word, commandWellFormed w = true ↔ ∃ i, decodeWord w = .ok i)

/-- R62, R63: a word with one of bits 63:4 set is rejected for its reserved bits whatever its OPCODE, and only OPCODE
0x8 to 0xF with those bits clear is rejected for its OPCODE. -/
def Obligations.RejectionReasons : Prop :=
  ∀ w : Word,
    (decodeWord w = .error .reservedBits ↔ w.toNat / 16 ≠ 0) ∧
    (decodeWord w = .error .reservedOpcode ↔ w.toNat / 16 = 0 ∧ 8 ≤ w.toNat % 16)

/-! ### Steps of the engine -/

/-- One step of the machine is the step of the agent whose turn is next. Whose that is, is the model's choice (log
entries 1 and 2): the agenda's first, or the engine's when nothing is to come. -/
def Obligations.StepTakesTheNextTurn : Prop :=
  ∀ s : State,
    step s = takeTurn s.popTurn.1 s.popTurn.2 ∧
    (s.env.agenda = [] → s.popTurn = (.engine, s)) ∧
    (∀ (t : Turn) (ts : List Turn), s.env.agenda = t :: ts →
      s.popTurn = (t, { s with env := { s.env with agenda := ts } }))

/-- R82: when the engine has the turn, the command in flight has no internal step left and its latched word decodes to
`i`, the step is `exec i`; on the bytes of the word too. (The turn and the internal steps are the model's, log entries 1
to 3.) -/
def Obligations.StepRunsDecodedCommand : Prop :=
  ∀ (s u : State) (f : Flight) (i : Instr), s.popTurn = (.engine, u) → u.flight = some f → f.left = 0 →
    decodeBytes (lanesOf f.lat.cmd) = .ok (i, []) → step s = exec i u

/-- A command placed by `State.withFetchWord` is run by the very next step: the model's stand-in for a host that has just
issued it (log entry 11). -/
def Obligations.PlacedCommandRunsNext : Prop :=
  ∀ (s : State) (i : Instr) (nbits w : Nat), nbits ≤ 64 → decodeTableWord nbits w = some i →
    ∃ u : State, step (s.withFetchWord nbits w) = exec i u ∧ u.env = s.env ∧
      u.flight = some { lat := s.latch (encode i), left := 0, loop := none } ∧
      ∀ r : Reg, r ≠ .status → readReg u r = readReg s r

/-- R62, R156: an illegal word is issued like any other word, but not executed, whatever its low bits and the operands
are; its completion reports ILLEGAL and changes nothing else, and LASTOP holds the word's low four bits. -/
def Obligations.IllegalWordCompletes : Prop :=
  ∀ w : Word, w.toNat / 16 ≠ 0 ∨ 8 ≤ w.toNat % 16 →
    (∀ s : State, s.flight = none →
      ∃ (t : State) (g : Flight), takeTurn (.host (.write 0x00 (lanesOf w))) s = .next t ∧ t.flight = some g ∧
        g.lat.cmd = w) ∧
    (∀ (s : State) (f : Flight), s.flight = some f → f.lat.cmd = w → f.left = 0 →
      takeTurn .engine s = .next (s.failedWith .illegal) ∧
      (s.InFlight f → (s.failedWith .illegal).status.lastop.toNat = w.toNat % 16))

/-- R8, R81: before completion the engine takes internal steps, which change nothing the host can read. -/
def Obligations.InternalStepsAreInvisible : Prop :=
  ∀ (s : State) (f : Flight), s.flight = some f → f.left ≠ 0 →
    ∃ (t : State) (g : Flight), takeTurn .engine s = .next t ∧ SameToHost s t ∧ t = { s with flight := some g } ∧
      g.lat = f.lat ∧ g.left + 1 = f.left

/-- R170: all state survives idleness. That an engine with nothing to do may be given a turn is the model's choice (log
entry 2). -/
def Obligations.IdleEngineChangesNothing : Prop :=
  ∀ s : State, s.flight = none → takeTurn .engine s = .next s

/-- R80: the host's write of any word to CMD while BUSY = 0 issues it: the word and every operand, staging and active
register are latched, BUSY is set, DONE, BOOL, INF and ERR are cleared, LASTOP is the low four bits, everything else the
spec names is unchanged, and IRQ is 0. -/
def Obligations.IssueLatchesAndClears : Prop :=
  ∀ (s : State) (w : Word), s.flight = none →
    ∃ (g : Flight) (e : Env),
      g.lat = { cmd := w, x1 := s.x1, y1 := s.y1, x2 := s.x2, y2 := s.y2, k := s.k, cfg := s.cfg, cur := s.cur } ∧
      takeTurn (.host (.write 0x00 (lanesOf w))) s = .next
        { s with
          status := { done := false, bool := false, inf := false, ovr := s.status.ovr, err := none,
                      lastop := BitVec.ofNat 4 (w.toNat % 16) }
          flight := some g
          env := e } ∧
      ∀ t, takeTurn (.host (.write 0x00 (lanesOf w))) s = .next t → t.irq = false

/-- R81: an issued command completes in the engine's LAT-th step, LAT being drawn at issue, and SMUL's loop has not
begun. (The draw is the model's, log entry 3.) -/
def Obligations.IssueDrawsTheLatency : Prop :=
  ∀ (s : State) (w : Word), s.flight = none →
    ∃ (t : State) (g : Flight), takeTurn (.host (.write 0x00 (lanesOf w))) s = .next t ∧ t.flight = some g ∧
      g.left + 1 = Config.latency s.env.draws w g.lat.copies ∧ g.loop = none ∧
      t.env.draws = s.env.draws + 1 ∧ t.env.agenda = s.env.agenda

/-- R159: a CMD write while BUSY is dropped: OVR is set, and the command in flight and everything else stay. OVR then
stays until the host writes 1 to STATUS bit 4, or reset. -/
def Obligations.OverrunRule : Prop :=
  (∀ (s : State) (f : Flight) (w : Word), s.flight = some f →
    ∃ e : Env, takeTurn (.host (.write 0x00 (lanesOf w))) s = .next
      { s with status := { s.status with ovr := true }, env := e }) ∧
  (∀ (turn : Turn) (s t : State), takeTurn turn s = .next t → s.status.ovr = true → t.status.ovr = false →
    turn = .reset ∨
    ∃ lanes : List Byte, turn = .host (.write 0x08 lanes) ∧ lanes.length = 8 ∧ (ofLanes lanes).getLsbD 4 = true)

/-! ### The commands -/

/-- R83: NOP, in full: no data register changes, BOOL, INF and ERR are cleared, DONE rises, and IRQ is what IE is. -/
def Obligations.NopResult : Prop :=
  encode .nop = 0x0000000000000000 ∧
  ∀ (s : State) (f : Flight), s.flight = some f →
    exec .nop s = .next (s.succeededWith s.rx s.ry s.cur false false) ∧
    (s.succeededWith s.rx s.ry s.cur false false).irq = s.ie

/-- R84, R157: CONFIG makes the latched staging curve the active one exactly when it is legal, and else reports CONFIG
and leaves the active curve. -/
def Obligations.ConfigResult : Prop :=
  encode .config = 0x0000000000000001 ∧
  ∀ (s : State) (f : Flight) (p a b : Nat), s.flight = some f →
    p = f.lat.cfg.p.toNat → a = f.lat.cfg.a.toNat → b = f.lat.cfg.b.toNat →
    (3 ≤ p ∧ p ≤ 2 ^ 63 - 1 ∧ p % 2 = 1 ∧ a < p ∧ 1 ≤ b ∧ b < p →
      exec .config s = .next (s.succeededWith s.rx s.ry f.lat.cfg false false)) ∧
    (¬(3 ≤ p ∧ p ≤ 2 ^ 63 - 1 ∧ p % 2 = 1 ∧ a < p ∧ 1 ≤ b ∧ b < p) →
      exec .config s = .next (s.failedWith .config))

/-- R85: the legal curves, of any integers and of the three registers read as unsigned, and that the reset curve is one. -/
def Obligations.LegalCurves : Prop :=
  (∀ c : Params, cfgValid c = true ↔
    3 ≤ c.p ∧ c.p ≤ 2 ^ 63 - 1 ∧ c.p % 2 = 1 ∧ 0 ≤ c.a ∧ c.a < c.p ∧ 1 ≤ c.b ∧ c.b < c.p) ∧
  (∀ c : Curve, c.params = ⟨(c.p.toNat : Int), (c.a.toNat : Int), (c.b.toNat : Int)⟩) ∧
  (∀ c : Curve, cfgValid c.params = true ↔
    3 ≤ c.p.toNat ∧ c.p.toNat ≤ 2 ^ 63 - 1 ∧ c.p.toNat % 2 = 1 ∧ c.a.toNat < c.p.toNat ∧ 1 ≤ c.b.toNat ∧
      c.b.toNat < c.p.toNat) ∧
  cfgValid State.reset.cur.params = true

/-- R90: RED writes to RX the residue in `[0, p)` of X1 read as signed, and nothing else but the flags. -/
def Obligations.RedResult : Prop :=
  encode .red = 0x0000000000000002 ∧
  ∀ (s : State) (f : Flight) (x p : Int), s.flight = some f → x = f.lat.x1.toInt → p = f.lat.cur.p.toNat → 0 < p →
    ∃ r : Word, (r.toNat : Int) = x % p ∧ exec .red s = .next (s.succeededWith r s.ry s.cur false false)

/-- R4: `reduce` is the source's formula `((x mod p) + p) mod p` with a truncating inner `mod`. -/
def Obligations.ReduceIsTheSourceFormula : Prop :=
  ∀ (c : Params) (x : Int), 0 < c.p →
    reduce c x = (x.tmod c.p + c.p).tmod c.p ∧ 0 ≤ reduce c x ∧ reduce c x < c.p ∧ c.p ∣ x - reduce c x

/-- R92: INV writes `reduce(x)^(p-2) mod p` to RX, for any modulus, prime or not; when `reduce(x) = 0` it reports
DIV_ZERO and RX is unchanged. -/
def Obligations.InvResult : Prop :=
  encode .inv = 0x0000000000000003 ∧
  ∀ (s : State) (f : Flight) (x p : Int), s.flight = some f → x = f.lat.x1.toInt → p = f.lat.cur.p.toNat → 0 < p →
    (x % p = 0 → exec .inv s = .next (s.failedWith .divZero)) ∧
    (x % p ≠ 0 → ∃ r : Word, (r.toNat : Int) = (x % p) ^ (p - 2).toNat % p ∧
      exec .inv s = .next (s.succeededWith r s.ry s.cur false false))

/-- R93: for a prime modulus and `reduce(x)` not 0, INV's result is the unique multiplicative inverse. -/
def Obligations.InvIsTheInverse : Prop :=
  ∀ (s : State) (f : Flight) (x : Int) (p : Nat), s.flight = some f → x = f.lat.x1.toInt → p = f.lat.cur.p.toNat →
    Nat.Prime p → x % p ≠ 0 →
    ∃ r : Word, exec .inv s = .next (s.succeededWith r s.ry s.cur false false) ∧ r.toNat < p ∧
      (x % p * r.toNat) % p = 1 ∧
      ∀ q : Int, 0 ≤ q → q < p → (x % p * q) % p = 1 → q = r.toNat

/-- R101: ONCURVE sets BOOL to 1 for the literal pair (0, 0) and else to whether the curve equation holds; RX, RY
and the curve are unchanged, and there is no error. -/
def Obligations.OnCurveResult : Prop :=
  encode .onCurve = 0x0000000000000004 ∧
  ∀ (s : State) (f : Flight) (x y p a b : Int), s.flight = some f → x = f.lat.x1.toInt → y = f.lat.y1.toInt →
    p = f.lat.cur.p.toNat → a = f.lat.cur.a.toNat → b = f.lat.cur.b.toNat →
    exec .onCurve s = .next
      (s.succeededWith s.rx s.ry s.cur
        (decide ((x = 0 ∧ y = 0) ∨ (y * y) % p = (x * x * x + a * x + b) % p)) false)

/-- R103: DBL. RANGE unless both coordinates are canonical; INF for `y = 0` (the sentinel among them); else the
tangent's formulas, with DIV_ZERO if `2y` reduces to 0. -/
def Obligations.DblResult : Prop :=
  encode .dbl = 0x0000000000000005 ∧
  ∀ (s : State) (f : Flight) (x y p a : Int), s.flight = some f → x = f.lat.x1.toInt → y = f.lat.y1.toInt →
    p = f.lat.cur.p.toNat → a = f.lat.cur.a.toNat →
    (¬(0 ≤ x ∧ x < p ∧ 0 ≤ y ∧ y < p) → exec .dbl s = .next (s.failedWith .range)) ∧
    (0 ≤ x ∧ x < p ∧ 0 ≤ y ∧ y < p →
      (y = 0 → exec .dbl s = .next (s.succeededWith 0 0 s.cur false true)) ∧
      (y ≠ 0 → (2 * y) % p = 0 → exec .dbl s = .next (s.failedWith .divZero)) ∧
      (y ≠ 0 → (2 * y) % p ≠ 0 →
        ∀ lam x3 y3 : Int,
          lam = ((3 * x * x + a) % p * (((2 * y) % p) ^ (p - 2).toNat % p)) % p →
          x3 = (lam * lam - 2 * x) % p → y3 = (lam * (x - x3) - y) % p →
          ∃ rx ry : Word, (rx.toNat : Int) = x3 ∧ (ry.toNat : Int) = y3 ∧
            exec .dbl s = .next (s.succeededWith rx ry s.cur false (decide (x3 = 0 ∧ y3 = 0)))))

/-- R104, R105, R106: ADD. RANGE unless all four coordinates are canonical, as DBL and SMUL give RANGE unless both are; then the sentinel is the identity on either side,
equal points are doubled as DBL does, equal `x` with different `y` gives INF, and else the chord's formulas. (That ADD
commutes for a prime modulus, which R105 infers, is `AddCommutes`.) -/
def Obligations.AddResult : Prop :=
  encode .add = 0x0000000000000006 ∧
  ∀ (s : State) (f : Flight) (x1 y1 x2 y2 p : Int), s.flight = some f → x1 = f.lat.x1.toInt → y1 = f.lat.y1.toInt →
    x2 = f.lat.x2.toInt → y2 = f.lat.y2.toInt → p = f.lat.cur.p.toNat →
    (¬((0 ≤ x1 ∧ x1 < p ∧ 0 ≤ y1 ∧ y1 < p) ∧ 0 ≤ x2 ∧ x2 < p ∧ 0 ≤ y2 ∧ y2 < p) →
      exec .add s = .next (s.failedWith .range)) ∧
    ((0 ≤ x1 ∧ x1 < p ∧ 0 ≤ y1 ∧ y1 < p) ∧ 0 ≤ x2 ∧ x2 < p ∧ 0 ≤ y2 ∧ y2 < p →
      (x1 = 0 ∧ y1 = 0 →
        exec .add s = .next (s.succeededWith f.lat.x2 f.lat.y2 s.cur false (decide (x2 = 0 ∧ y2 = 0)))) ∧
      (x2 = 0 ∧ y2 = 0 →
        exec .add s = .next (s.succeededWith f.lat.x1 f.lat.y1 s.cur false (decide (x1 = 0 ∧ y1 = 0)))) ∧
      (¬(x1 = 0 ∧ y1 = 0) → ¬(x2 = 0 ∧ y2 = 0) →
        (x1 = x2 → y1 = y2 → exec .add s = exec .dbl s) ∧
        (x1 = x2 → y1 ≠ y2 → exec .add s = .next (s.succeededWith 0 0 s.cur false true)) ∧
        (x1 ≠ x2 →
          ∀ lam x3 y3 : Int,
            lam = ((y2 - y1) % p * (((x2 - x1) % p) ^ (p - 2).toNat % p)) % p →
            x3 = (lam * lam - x1 - x2) % p → y3 = (lam * (x1 - x3) - y1) % p →
            ∃ rx ry : Word, (rx.toNat : Int) = x3 ∧ (ry.toNat : Int) = y3 ∧
              exec .add s = .next (s.succeededWith rx ry s.cur false (decide (x3 = 0 ∧ y3 = 0)))))) ∧
    (∀ i : Instr, i = .dbl ∨ i = .smul → ¬(0 ≤ x1 ∧ x1 < p ∧ 0 ≤ y1 ∧ y1 < p) → exec i s = .next (s.failedWith .range))

/-- R102: `pt_double` on canonical coordinates, for any modulus: INF for `y = 0` (the sentinel among them), else the
tangent's formulas, or DIV_ZERO where `fe_inv(2y)` raises it. -/
def Obligations.PointDoubleFormula : Prop :=
  ∀ (c : Params) (x y : Int), 0 ≤ x ∧ x < c.p ∧ 0 ≤ y ∧ y < c.p →
    (y = 0 → ptDouble c ⟨x, y⟩ = .ok ⟨0, 0⟩) ∧
    (y ≠ 0 → (2 * y) % c.p = 0 → ptDouble c ⟨x, y⟩ = .error .divZero) ∧
    (y ≠ 0 → (2 * y) % c.p ≠ 0 →
      ∀ lam x3 y3 : Int,
        lam = ((3 * x * x + c.a) % c.p * (((2 * y) % c.p) ^ (c.p - 2).toNat % c.p)) % c.p →
        x3 = (lam * lam - 2 * x) % c.p → y3 = (lam * (x - x3) - y) % c.p → ptDouble c ⟨x, y⟩ = .ok ⟨x3, y3⟩)

/-- R104: `pt_add` on canonical coordinates, for any modulus: the sentinel is the identity on either side, equal points
are doubled, equal `x` with different `y` gives INF, and else the chord's formulas, which raise nothing. -/
def Obligations.PointAddFormula : Prop :=
  ∀ (c : Params) (x1 y1 x2 y2 : Int),
    (0 ≤ x1 ∧ x1 < c.p ∧ 0 ≤ y1 ∧ y1 < c.p) ∧ 0 ≤ x2 ∧ x2 < c.p ∧ 0 ≤ y2 ∧ y2 < c.p →
    (x1 = 0 ∧ y1 = 0 → ptAdd c ⟨x1, y1⟩ ⟨x2, y2⟩ = .ok ⟨x2, y2⟩) ∧
    (x2 = 0 ∧ y2 = 0 → ptAdd c ⟨x1, y1⟩ ⟨x2, y2⟩ = .ok ⟨x1, y1⟩) ∧
    (¬(x1 = 0 ∧ y1 = 0) → ¬(x2 = 0 ∧ y2 = 0) →
      (x1 = x2 → y1 = y2 → ptAdd c ⟨x1, y1⟩ ⟨x2, y2⟩ = ptDouble c ⟨x1, y1⟩) ∧
      (x1 = x2 → y1 ≠ y2 → ptAdd c ⟨x1, y1⟩ ⟨x2, y2⟩ = .ok ⟨0, 0⟩) ∧
      (x1 ≠ x2 →
        ∀ lam x3 y3 : Int,
          lam = ((y2 - y1) % c.p * (((x2 - x1) % c.p) ^ (c.p - 2).toNat % c.p)) % c.p →
          x3 = (lam * lam - x1 - x2) % c.p → y3 = (lam * (x1 - x3) - y1) % c.p →
          ptAdd c ⟨x1, y1⟩ ⟨x2, y2⟩ = .ok ⟨x3, y3⟩))

/-- R131: SMUL. RANGE unless both coordinates are canonical, whatever `k` is; else the point `pt_smul` gives, or its
error. SMUL's hidden loop (R25), if it has begun, is a consistent one, which `InvKeptByStep` says of every step. -/
def Obligations.SmulResult : Prop :=
  encode .smul = 0x0000000000000007 ∧
  ∀ (s : State) (f : Flight) (x y p : Int), s.flight = some f → (∀ l, f.loop = some l → f.LoopConsistent l) →
    x = f.lat.x1.toInt → y = f.lat.y1.toInt → p = f.lat.cur.p.toNat →
    (¬(0 ≤ x ∧ x < p ∧ 0 ≤ y ∧ y < p) → exec .smul s = .next (s.failedWith .range)) ∧
    (0 ≤ x ∧ x < p ∧ 0 ≤ y ∧ y < p →
      (f.lat.k.toNat = 0 → exec .smul s = .next (s.succeededWith 0 0 s.cur false true)) ∧
      (f.lat.k.toNat = 1 →
        exec .smul s = .next (s.succeededWith f.lat.x1 f.lat.y1 s.cur false (decide (x = 0 ∧ y = 0)))) ∧
      (∀ R, ptSmul f.lat.cur.params ⟨x, y⟩ f.lat.k.toNat = .ok R →
        ∃ rx ry : Word, (rx.toNat : Int) = R.x ∧ (ry.toNat : Int) = R.y ∧
          exec .smul s = .next (s.succeededWith rx ry s.cur false (decide (R.x = 0 ∧ R.y = 0)))) ∧
      (∀ e, ptSmul f.lat.cur.params ⟨x, y⟩ f.lat.k.toNat = .error e →
        exec .smul s = .next (s.failedWith e)))

/-- R130: `pt_smul` is INF for 0 and the point for 1, and one more bit of the scalar, read most significant first, is
one more doubling and, for a 1 bit, one more addition with the special case for an accumulator at infinity; an error
ends it. (What `ptDouble` and `ptAdd` answer: `PointDoubleFormula`, `PointAddFormula`.) -/
def Obligations.SmulIsDoubleAndAdd : Prop :=
  ∀ (c : Params) (P : Point),
    ptSmul c P 0 = .ok ⟨0, 0⟩ ∧ ptSmul c P 1 = .ok P ∧
    ∀ k : Nat, 1 ≤ k →
      (∀ e, ptSmul c P k = .error e → ptSmul c P (2 * k) = .error e ∧ ptSmul c P (2 * k + 1) = .error e) ∧
      (∀ acc, ptSmul c P k = .ok acc →
        ptSmul c P (2 * k) = ptDouble c acc ∧
        (∀ e, ptDouble c acc = .error e → ptSmul c P (2 * k + 1) = .error e) ∧
        (∀ d, ptDouble c acc = .ok d →
          ptSmul c P (2 * k + 1) = if d.x = 0 ∧ d.y = 0 then .ok P else ptAdd c d P))

/-- R132: seeding with infinity and expanding `k` to any width with leading zeros gives the same result. -/
def Obligations.SmulWithLeadingZeros : Prop :=
  ∀ (c : Params) (P : Point) (k width : Nat), k < 2 ^ width →
    smulLoop c P k ⟨0, 0⟩ width = ptSmul c P k

/-- R133: for `k >= 2`, `pt_smul` is a sequence of exactly `bitlength(k) - 1` doublings and `popcount(k) - 1`
additions. -/
def Obligations.SmulOperationCounts : Prop :=
  ∀ (c : Params) (P : Point) (k n : Nat), 2 ≤ k → 2 ^ (n - 1) ≤ k → k < 2 ^ n →
    ptSmul c P k = runOps c P P (smulOps k (n - 1)) ∧
    (smulOps k (n - 1)).count .double = n - 1 ∧
    (smulOps k (n - 1)).count .addBase = popcount k n - 1

/-! ### The point commands together -/

/-- R108, R109: under a legal curve, what DBL, ADD or SMUL writes on success is canonical, and INF is set exactly when
both results are 0. -/
def Obligations.PointResultsAreCanonical : Prop :=
  ∀ (i : Instr) (s t : State) (f : Flight), i = .dbl ∨ i = .add ∨ i = .smul → s.flight = some f →
    (∀ l, f.loop = some l → f.LoopConsistent l) → cfgValid f.lat.cur.params = true → exec i s = .next t →
    t.status.err = none →
    t.rx.toNat < f.lat.cur.p.toNat ∧ t.ry.toNat < f.lat.cur.p.toNat ∧
      (t.status.inf = true ↔ t.rx = 0 ∧ t.ry = 0)

/-- R154: under a legal curve neither DBL nor ADD nor SMUL reports DIV_ZERO. -/
def Obligations.PointCommandsNeverDivideByZero : Prop :=
  ∀ (i : Instr) (s t : State) (f : Flight), i = .dbl ∨ i = .add ∨ i = .smul → s.flight = some f →
    (∀ l, f.loop = some l → f.LoopConsistent l) → cfgValid f.lat.cur.params = true → exec i s = .next t →
    t.status.err ≠ some .divZero

/-- R85, R185: the pair (0, 0) is off every legal curve, though ONCURVE's test answers 1 for it (R100; 90_conflicts.md
C1), as it does else exactly for the pairs of integers that satisfy the equation. -/
def Obligations.SentinelIsOffEveryLegalCurve : Prop :=
  (∀ c : Params, cfgValid c = true → ¬Point.OnCurve c ⟨0, 0⟩ ∧ ptOnCurve c ⟨0, 0⟩ = true) ∧
  ∀ (c : Params) (x y : Int), ptOnCurve c ⟨x, y⟩ = true ↔
    (x = 0 ∧ y = 0) ∨ (y * y) % c.p = (x * x * x + c.a * x + c.b) % c.p

/-- R105: for a prime modulus, adding in the other order gives the same result. -/
def Obligations.AddCommutes : Prop :=
  ∀ (c : Params) (p : Nat) (P Q : Point), cfgValid c = true → c.p = p → Nat.Prime p → P.Canonical c →
    Q.Canonical c → ptAdd c P Q = ptAdd c Q P

/-- R134: for a prime modulus, a non-singular curve and a point on it, `k1 + k2` times the point is the sum of the
multiples. -/
def Obligations.SmulIsAdditive : Prop :=
  ∀ (c : Params) (p : Nat) (P : Point) (k1 k2 : Nat), cfgValid c = true → c.p = p → Nat.Prime p →
    (4 * c.a ^ 3 + 27 * c.b ^ 2) % c.p ≠ 0 → P.Canonical c → ptOnCurve c P = true → k1 + k2 ≤ 2 ^ 64 - 1 →
    ∃ Q1 Q2 : Point, ptSmul c P k1 = .ok Q1 ∧ ptSmul c P k2 = .ok Q2 ∧
      ptSmul c P (k1 + k2) = ptAdd c Q1 Q2

/-- R134: Diffie-Hellman agreement under the same conditions, and the shared point is on the curve (R108, R158); the reset curve
and the base point (2, 9) meet them (R93, 95_test_vectors.md L1-1). -/
def Obligations.DiffieHellmanAgreement : Prop :=
  (cfgValid State.reset.cur.params = true ∧ Nat.Prime State.reset.cur.p.toNat ∧
    (4 * State.reset.cur.params.a ^ 3 + 27 * State.reset.cur.params.b ^ 2) % State.reset.cur.params.p ≠ 0 ∧
    Point.Canonical State.reset.cur.params ⟨2, 9⟩ ∧ ptOnCurve State.reset.cur.params ⟨2, 9⟩ = true) ∧
  ∀ (c : Params) (p : Nat) (P : Point) (ka kb : Nat), cfgValid c = true → c.p = p → Nat.Prime p →
    (4 * c.a ^ 3 + 27 * c.b ^ 2) % c.p ≠ 0 → P.Canonical c → ptOnCurve c P = true → ka ≤ 2 ^ 64 - 1 →
    kb ≤ 2 ^ 64 - 1 →
    ∃ Qa Qb S : Point, ptSmul c P ka = .ok Qa ∧ ptSmul c P kb = .ok Qb ∧ ptSmul c Qa kb = .ok S ∧
      ptSmul c Qb ka = .ok S ∧ ptOnCurve c S = true

/-! ### Completion, frames and whole-machine rules -/

/-- R8, R82: a command completes whatever its operands, in the engine's completion step: BUSY falls and DONE rises. Only
without a command in flight is there no completion step (log entry 6). -/
def Obligations.EveryCommandCompletes : Prop :=
  ∀ (i : Instr) (s : State),
    (s.busy = true → ∃ t, exec i s = .next t ∧ t.busy = false ∧ t.status.done = true ∧ t.irq = s.ie) ∧
    (s.busy = false → exec i s = .fault .noCommandInFlight)

/-- R152: a command that fails changes nothing but ERR, BUSY and DONE; BOOL and INF stay 0, the values issue gave them. -/
def Obligations.FailureIsAllOrNothing : Prop :=
  ∀ (i : Instr) (s t : State) (f : Flight), s.flight = some f → s.InFlight f → exec i s = .next t →
    t.status.err ≠ none →
    ∃ e, t.status.err = some e ∧ t = s.failedWith e ∧ t.status.bool = false ∧ t.status.inf = false

/-- R66: the frame of every command. No command writes an operand or staging register, CTRL, OVR or LASTOP; RX is
written only by RED, INV and the point commands, RY only by the point commands, the active curve only by CONFIG, BOOL is
0 but after ONCURVE, and INF is 0 but after a point command, when the command succeeds. -/
def Obligations.CommandFrame : Prop :=
  ∀ (i : Instr) (s t : State), exec i s = .next t →
    (∀ r : Reg, r = .cmd ∨ r = .ctrl ∨ r = .cfgP ∨ r = .cfgA ∨ r = .cfgB ∨ r = .x1 ∨ r = .y1 ∨ r = .x2 ∨ r = .y2 ∨
      r = .k → readReg t r = readReg s r) ∧
    t.status.ovr = s.status.ovr ∧ t.status.lastop = s.status.lastop ∧ t.env = s.env ∧
    (i = .nop ∨ i = .config ∨ i = .onCurve → t.rx = s.rx ∧ t.ry = s.ry) ∧
    (i = .red ∨ i = .inv → t.ry = s.ry) ∧
    (i ≠ .config → t.cur = s.cur) ∧
    (i ≠ .onCurve → t.status.err = none → t.status.bool = false) ∧
    (i ≠ .dbl ∧ i ≠ .add ∧ i ≠ .smul → t.status.err = none → t.status.inf = false)

/-- R24, R29: a command's outcome depends on what issue latched and on nothing else: from two states with the same
command in flight, whatever else differs, ERR is the same, and each result is either the same or left alone in both. -/
def Obligations.OutcomeDependsOnLatchedAlone : Prop :=
  ∀ (i : Instr) (s1 s2 : State) (f : Flight), s1.flight = some f → s2.flight = some f →
    ∃ t1 t2 : State, exec i s1 = .next t1 ∧ exec i s2 = .next t2 ∧ t1.status.err = t2.status.err ∧
      (t1.status.err = none → t1.status.bool = t2.status.bool ∧ t1.status.inf = t2.status.inf) ∧
      (t1.rx = t2.rx ∨ (t1.rx = s1.rx ∧ t2.rx = s2.rx)) ∧ (t1.ry = t2.ry ∨ (t1.ry = s1.ry ∧ t2.ry = s2.ry)) ∧
      (t1.cur = t2.cur ∨ (t1.cur = s1.cur ∧ t2.cur = s2.cur))

/-- R15: only a CONFIG that succeeds and reset change the active curve. -/
def Obligations.OnlyConfigAndResetChangeTheCurve : Prop :=
  ∀ (turn : Turn) (s t : State), takeTurn turn s = .next t → t.cur ≠ s.cur →
    (turn = .reset ∧ t.cur = State.reset.cur) ∨
    (∃ f, turn = .engine ∧ s.flight = some f ∧ f.lat.cmd = 1 ∧ t.cur = f.lat.cfg ∧ cfgValid t.cur.params = true ∧
      t.status.err = none)

/-- R19: only the completion of a command that succeeds, and reset, change RX and RY; RX by RED, INV and the point
commands, RY by the point commands. -/
def Obligations.OnlyCompletionAndResetChangeResults : Prop :=
  ∀ (turn : Turn) (s t : State), takeTurn turn s = .next t → t.rx ≠ s.rx ∨ t.ry ≠ s.ry →
    turn = .reset ∨
    (∃ f, turn = .engine ∧ s.flight = some f ∧ f.left = 0 ∧ t.flight = none ∧ t.status.err = none ∧
      t.status.done = true ∧ (t.rx ≠ s.rx → 2 ≤ f.lat.cmd.toNat ∧ f.lat.cmd.toNat ≤ 7 ∧ f.lat.cmd.toNat ≠ 4) ∧
      (t.ry ≠ s.ry → 5 ≤ f.lat.cmd.toNat ∧ f.lat.cmd.toNat ≤ 7))

/-- R17, R18: only the host's own write to it, and reset, change an operand or staging register. -/
def Obligations.OnlyTheHostAndResetChangeOperands : Prop :=
  ∀ (turn : Turn) (s t : State) (r : Reg),
    r = .x1 ∨ r = .y1 ∨ r = .x2 ∨ r = .y2 ∨ r = .k ∨ r = .cfgP ∨ r = .cfgA ∨ r = .cfgB →
    takeTurn turn s = .next t → readReg t r ≠ readReg s r →
    (turn = .reset ∧ readReg t r = readReg State.reset r) ∨
    (∃ lanes : List Byte, turn = .host (.write r.offset lanes) ∧ lanes.length = 8 ∧ readReg t r = ofLanes lanes)

/-- R160, R43: the engine takes no traps and refuses nothing: the one step that is not a next state is a host access
that gets an error response. -/
def Obligations.OnlyErrorResponsesStop : Prop :=
  ∀ (turn : Turn) (s : State), (∃ t, takeTurn turn s = .next t) ∨
    (∃ (a : Access) (data : List Byte), turn = .host a ∧ takeTurn turn s = .fault (.errorResponse a data) ∧
      (a.width ≠ 8 ∨ a.off.toNat % 8 ≠ 0 ∨ 0x80 ≤ a.off.toNat))

/-! ### The register window -/

/-- R41: an aligned 8-byte read at 0x00 to 0x78 replies with the register at that offset, CMD as 0, and changes nothing
of the engine; R10: which register stands at each offset. (Where the reply is kept is the model's choice, log entry 4.) -/
def Obligations.BusReadReturnsTheRegister : Prop :=
  (∀ (s : State) (off : Offset), off.toNat % 8 = 0 → off.toNat ≤ 0x78 →
    ∃ r : Reg, r.offset = off ∧
      takeTurn (.host (.read off 8)) s = .next
        { s with env := { s.env with reply := some (.data (lanesOf (readReg s r))) } }) ∧
  (∀ s : State, readReg s .cmd = 0 ∧ readReg s .status = s.statusWord ∧ readReg s .cfgP = s.cfg.p ∧
    readReg s .cfgA = s.cfg.a ∧ readReg s .cfgB = s.cfg.b ∧ readReg s .curP = s.cur.p ∧ readReg s .curA = s.cur.a ∧
    readReg s .curB = s.cur.b ∧ readReg s .x1 = s.x1 ∧ readReg s .y1 = s.y1 ∧ readReg s .x2 = s.x2 ∧
    readReg s .y2 = s.y2 ∧ readReg s .k = s.k ∧ readReg s .rx = s.rx ∧ readReg s .ry = s.ry) ∧
  Reg.offset .cmd = 0x00 ∧ Reg.offset .status = 0x08 ∧ Reg.offset .ctrl = 0x10 ∧ Reg.offset .cfgP = 0x18 ∧
    Reg.offset .cfgA = 0x20 ∧ Reg.offset .cfgB = 0x28 ∧ Reg.offset .curP = 0x30 ∧ Reg.offset .curA = 0x38 ∧
    Reg.offset .curB = 0x40 ∧ Reg.offset .x1 = 0x48 ∧ Reg.offset .y1 = 0x50 ∧ Reg.offset .x2 = 0x58 ∧
    Reg.offset .y2 = 0x60 ∧ Reg.offset .k = 0x68 ∧ Reg.offset .rx = 0x70 ∧ Reg.offset .ry = 0x78

/-- R42, R10: what an aligned 8-byte write of `v` does at each offset: CTRL keeps only IE; CFG_P, CFG_A, CFG_B, X1, Y1,
X2, Y2 and K store it, busy or not; CUR_P, CUR_A, CUR_B, RX and RY ignore it. (CMD and STATUS: `IssueLatchesAndClears`,
`OverrunRule`, `StatusWriteOneToClear`; the reply is kept as log entry 4 says.) -/
def Obligations.BusWriteStoresTheRegister : Prop :=
  ∀ (s : State) (v : Word) (e : Env), e = { s.env with reply := some .written } →
    takeTurn (.host (.write 0x10 (lanesOf v))) s = .next { s with ie := v.getLsbD 0, env := e } ∧
    takeTurn (.host (.write 0x18 (lanesOf v))) s = .next { s with cfg := { s.cfg with p := v }, env := e } ∧
    takeTurn (.host (.write 0x20 (lanesOf v))) s = .next { s with cfg := { s.cfg with a := v }, env := e } ∧
    takeTurn (.host (.write 0x28 (lanesOf v))) s = .next { s with cfg := { s.cfg with b := v }, env := e } ∧
    takeTurn (.host (.write 0x48 (lanesOf v))) s = .next { s with x1 := v, env := e } ∧
    takeTurn (.host (.write 0x50 (lanesOf v))) s = .next { s with y1 := v, env := e } ∧
    takeTurn (.host (.write 0x58 (lanesOf v))) s = .next { s with x2 := v, env := e } ∧
    takeTurn (.host (.write 0x60 (lanesOf v))) s = .next { s with y2 := v, env := e } ∧
    takeTurn (.host (.write 0x68 (lanesOf v))) s = .next { s with k := v, env := e } ∧
    takeTurn (.host (.write 0x30 (lanesOf v))) s = .next { s with env := e } ∧
    takeTurn (.host (.write 0x38 (lanesOf v))) s = .next { s with env := e } ∧
    takeTurn (.host (.write 0x40 (lanesOf v))) s = .next { s with env := e } ∧
    takeTurn (.host (.write 0x70 (lanesOf v))) s = .next { s with env := e } ∧
    takeTurn (.host (.write 0x78 (lanesOf v))) s = .next { s with env := e }

/-- R43: an access of a width other than 8 bytes, at an offset that is no multiple of 8, or at 0x80 to 0xFF, is a fault
of the host's step, with data 0 in every byte of a read; any other access is accepted. -/
def Obligations.ErrorResponses : Prop :=
  ∀ (s : State) (a : Access),
    (a.width ≠ 8 ∨ a.off.toNat % 8 ≠ 0 ∨ 0x80 ≤ a.off.toNat →
      ∃ data : List Byte, takeTurn (.host a) s = .fault (.errorResponse a data) ∧
        ∀ off width, a = .read off width → data.length = width ∧ ∀ b ∈ data, b = 0) ∧
    (¬(a.width ≠ 8 ∨ a.off.toNat % 8 ≠ 0 ∨ 0x80 ≤ a.off.toNat) → ∃ t, takeTurn (.host a) s = .next t)

/-- R44: byte lane `i` of a register is its bits `[8i+7 : 8i]`, at the host address `ENGINE_BASE + off + i`, and the
lanes of a write give back the word. -/
def Obligations.ByteLanesAreLittleEndian : Prop :=
  ∀ v : Word, (lanesOf v).length = 8 ∧ ofLanes (lanesOf v) = v ∧
    ∀ i : Nat, i < 8 →
      (∃ b : Byte, (lanesOf v)[i]? = some b ∧ b.toNat = v.toNat / 2 ^ (8 * i) % 256) ∧
      ∀ r : Reg, windowOffset (laneAddress r.offset i) = some (r.offset + BitVec.ofNat 8 i)

/-- R40: the window spans the host addresses `ENGINE_BASE` to `ENGINE_BASE + 0xFF`, and the offset is the address less
`ENGINE_BASE`. -/
def Obligations.WindowOffsets : Prop :=
  ∀ addr : Nat,
    (∀ off : Offset, windowOffset addr = some off ↔ addr = Config.engineBase + off.toNat) ∧
    (windowOffset addr = none ↔ addr < Config.engineBase ∨ Config.engineBase + 0xFF < addr)

/-- R47: a read right after a write to the same read-write register returns the written value, and no other register of
the window has changed. (The agenda and the reply are the model's, log entries 1 and 4.) -/
def Obligations.ReadAfterWrite : Prop :=
  ∀ (s : State) (ts : List Turn) (r : Reg) (v : Word),
    r = .cfgP ∨ r = .cfgA ∨ r = .cfgB ∨ r = .x1 ∨ r = .y1 ∨ r = .x2 ∨ r = .y2 ∨ r = .k →
    s.env.agenda = .host (.write r.offset (lanesOf v)) :: .host (.read r.offset 8) :: ts →
    ∃ t : State, core.run 2 s = .next t ∧ t.env.reply = some (.data (lanesOf v)) ∧ readReg t r = v ∧
      ∀ r' : Reg, r' ≠ r → readReg t r' = readReg s r'

/-- R12: STATUS bit by bit: BUSY 0, DONE 1, BOOL 2, INF 3, OVR 4, ERR 11:8, LASTOP 15:12, every other bit 0. -/
def Obligations.StatusLayout : Prop :=
  ∀ (s : State) (n : Nat),
    (s.statusWord).getLsbD n =
      (if n = 0 then s.flight.isSome
      else if n = 1 then s.status.done
      else if n = 2 then s.status.bool
      else if n = 3 then s.status.inf
      else if n = 4 then s.status.ovr
      else if 8 ≤ n ∧ n < 12 then (errField s.status.err).getLsbD (n - 8)
      else if 12 ≤ n ∧ n < 16 then s.status.lastop.getLsbD (n - 12)
      else false)

/-- R150: the codes of ERR, and that 5 to 15 are never read. -/
def Obligations.ErrorCodes : Prop :=
  errField none = 0 ∧ errField (some .illegal) = 1 ∧ errField (some .config) = 2 ∧ errField (some .range) = 3 ∧
    errField (some .divZero) = 4 ∧ ∀ s : State, s.statusWord.toNat / 2 ^ 8 % 16 ≤ 4

/-- R13: a host write to STATUS clears DONE by bit 1 unless BUSY and OVR by bit 4, and does nothing else. -/
def Obligations.StatusWriteOneToClear : Prop :=
  ∀ (s : State) (w : Word),
    ∃ e : Env, takeTurn (.host (.write 0x08 (lanesOf w))) s = .next
      { s with
        status :=
          { s.status with
            done := s.status.done && !(w.getLsbD 1 && !s.flight.isSome)
            ovr := s.status.ovr && !w.getLsbD 4 }
        env := e }

/-- R14: CTRL reads as IE in bit 0 and 0 in every other bit, whatever was written. -/
def Obligations.CtrlHoldsOnlyIe : Prop :=
  ∀ (s : State) (v : Word), (readReg s .ctrl).toNat = s.ie.toNat ∧
    (readReg (writeReg s .ctrl v) .ctrl).toNat = v.toNat % 2

/-- R162: IRQ is DONE and IE, on the line it is wired to. It is asserted by the completion of any command, successful
or failed, valid or illegal, while IE = 1, and deasserted by a write of 1 to STATUS bit 1 when idle, by the next issue,
by a write of 0 to IE and by reset; an overrun raises no interrupt. -/
def Obligations.InterruptOutput : Prop :=
  (∀ (s : State) (n : Nat), s.irq = (s.status.done && s.ie) ∧
    (s.drivesLine n = true ↔ n = Config.irqLine ∧ s.irq = true)) ∧
  (∀ (s : State) (f : Flight), s.flight = some f → f.left = 0 →
    ∃ t, takeTurn .engine s = .next t ∧ t.irq = s.ie) ∧
  (∀ (s : State) (w : Word), s.flight = none → w.getLsbD 1 = true →
    ∃ t, takeTurn (.host (.write 0x08 (lanesOf w))) s = .next t ∧ t.irq = false) ∧
  (∀ (s : State) (w : Word), s.flight = none →
    ∃ t, takeTurn (.host (.write 0x00 (lanesOf w))) s = .next t ∧ t.irq = false) ∧
  (∀ (s : State) (w : Word), w.getLsbD 0 = false →
    ∃ t, takeTurn (.host (.write 0x10 (lanesOf w))) s = .next t ∧ t.irq = false) ∧
  (∀ (s : State) (w : Word), s.flight.isSome = true →
    ∃ t, takeTurn (.host (.write 0x00 (lanesOf w))) s = .next t ∧ t.irq = s.irq) ∧
  (∀ s : State, ∃ t, takeTurn .reset s = .next t ∧ t.irq = false)

/-! ### Reset and the invariant -/

/-- R10: the reset value of every register. -/
def Obligations.ResetValues : Prop :=
  readReg State.reset .cmd = 0 ∧ readReg State.reset .status = 0 ∧ readReg State.reset .ctrl = 0 ∧
    readReg State.reset .cfgP = 101 ∧ readReg State.reset .cfgA = 35 ∧ readReg State.reset .cfgB = 3 ∧
    readReg State.reset .curP = 101 ∧ readReg State.reset .curA = 35 ∧ readReg State.reset .curB = 3 ∧
    readReg State.reset .x1 = 0 ∧ readReg State.reset .y1 = 0 ∧ readReg State.reset .x2 = 0 ∧
    readReg State.reset .y2 = 0 ∧ readReg State.reset .k = 0 ∧ readReg State.reset .rx = 0 ∧
    readReg State.reset .ry = 0

/-- R180, R182: the reset step, at any time, also with a command in flight: every register takes its reset value, the
sequencer is idle, what was latched is gone, no completion happens and IRQ is 0. -/
def Obligations.ResetStep : Prop :=
  ∀ s : State, ∃ t : State, takeTurn .reset s = .next t ∧ t.seq = .idle ∧ t.flight = none ∧ t.irq = false ∧
    readReg t .cmd = 0 ∧ readReg t .status = 0 ∧ readReg t .ctrl = 0 ∧ readReg t .cfgP = 101 ∧ readReg t .cfgA = 35 ∧
    readReg t .cfgB = 3 ∧ readReg t .curP = 101 ∧ readReg t .curA = 35 ∧ readReg t .curB = 3 ∧ readReg t .x1 = 0 ∧
    readReg t .y1 = 0 ∧ readReg t .x2 = 0 ∧ readReg t .y2 = 0 ∧ readReg t .k = 0 ∧ readReg t .rx = 0 ∧
    readReg t .ry = 0

/-- R183: the state after reset meets the invariant. -/
def Obligations.InvAtReset : Prop := State.reset.Inv

/-- The invariant (R12, R15, R19, R80, R150 with the inference of R154) is kept by every step of every agent. -/
def Obligations.InvKeptByStep : Prop := ∀ s t : State, s.Inv → step s = .next t → t.Inv

/-! ### Runs -/

/-- R81, R193: with nothing from outside, a command in flight completes in exactly its remaining internal steps and one:
it is busy after each step before that, with nothing the host can read changed, and then idle with DONE set. (That the
engine has the turn when nothing is to come is the model's form of R193's fairness, log entry 2.) -/
def Obligations.CompletesInItsLatency : Prop :=
  ∀ (s : State) (f : Flight), s.env.agenda = [] → s.flight = some f →
    (∀ n : Nat, n ≤ f.left → ∃ t : State, core.run n s = .next t ∧ t.busy = true ∧ SameToHost s t) ∧
    ∃ t : State, core.run (f.left + 1) s = .next t ∧ t.busy = false ∧ t.status.done = true

/-- R188, R24: whatever the host reads and writes during the busy interval, the command completes with the values latched
at issue. `turns` is any interleaving of host accesses without error response and of engine turns that leave `n` internal
steps (the agenda, log entry 1); then the engine takes those and the completion step (log entry 2). The results, the
active curve and every STATUS field but OVR are what they are with no host access at all. -/
def Obligations.OperandWritesAfterIssueAreSafe : Prop :=
  ∀ (s : State) (f : Flight) (turns : List Turn) (n : Nat), s.flight = some f → s.env.agenda = turns →
    (∀ turn ∈ turns, turn = .engine ∨
      ∃ a : Access, turn = .host a ∧ a.width = 8 ∧ a.off.toNat % 8 = 0 ∧ a.off.toNat < 0x80) →
    turns.count .engine + n = f.left →
    ∃ t u : State, core.run (turns.length + (n + 1)) s = .next t ∧
      core.run (f.left + 1) (s.withAgenda []) = .next u ∧ t.busy = false ∧ u.busy = false ∧
      t.rx = u.rx ∧ t.ry = u.ry ∧ t.cur = u.cur ∧ t.status.err = u.status.err ∧ t.status.bool = u.status.bool ∧
      t.status.inf = u.status.inf ∧ t.status.lastop = u.status.lastop ∧ t.status.done = true ∧ u.status.done = true
end

