-- ==== Sys2Proof/Laws/Arith.lean ====
section
/-! SUPPORT. The exact arithmetic of the commands: residues, the two readings of a pattern, square-and-multiply, legal
curves and the length of a scalar. -/

namespace Sys2Proof.Machine

theorem mod_nonneg (x : Int) {m : Int} (h : 0 < m) : 0 ≤ mod x m :=
  Int.emod_nonneg x h.ne'

theorem mod_lt (x : Int) {m : Int} (h : 0 < m) : mod x m < m :=
  Int.emod_lt_of_pos x h

/-- A canonical value is its own residue. -/
theorem mod_of_canonical {x m : Int} (h0 : 0 ≤ x) (h : x < m) : mod x m = x :=
  Int.emod_eq_of_lt h0 h

theorem mod_mod (x m : Int) : mod (mod x m) m = mod x m :=
  Int.emod_emod_of_dvd x dvd_rfl

theorem uint64_nonneg (v : Word) : 0 ≤ uint64 v :=
  Int.natCast_nonneg _

theorem uint64_lt (v : Word) : uint64 v < 2 ^ 64 := by
  have := v.isLt
  simp only [uint64]
  omega

/-- The two's-complement reading is that of the library (00_scope.md R5). -/
theorem sint64_eq_toInt (v : Word) : sint64 v = v.toInt := by
  simp only [sint64, BitVec.toInt_eq_toNat_cond]
  split <;> split <;> omega

theorem sint64_of_lt {v : Word} (h : v.toNat < 2 ^ 63) : sint64 v = v.toNat := by
  simp only [sint64, h, if_true]

/-- A value that is canonical under some legal modulus survives `enc64`. -/
theorem toNat_enc64 {i : Int} (h0 : 0 ≤ i) (h : i < 2 ^ 63) : ((enc64 i).toNat : Int) = i := by
  simp only [enc64, BitVec.toNat_ofInt]
  omega

theorem enc64_eq_zero {i : Int} (h0 : 0 ≤ i) (h : i < 2 ^ 63) : enc64 i = 0 ↔ i = 0 := by
  constructor
  · intro he
    have := toNat_enc64 h0 h
    rw [he] at this
    simpa using this.symm
  · rintro rfl
    rfl

theorem canon_iff (c : Params) (v : Word) : canon c v = true ↔ 0 ≤ sint64 v ∧ sint64 v < c.p := by
  simp only [canon, Bool.and_eq_true, decide_eq_true_eq]

/-- The clauses of `cfg_valid` (40_control.md R85). -/
theorem cfgValid_iff (c : Params) :
    cfgValid c = true ↔
      3 ≤ c.p ∧ c.p ≤ 2 ^ 63 - 1 ∧ c.p % 2 = 1 ∧ 0 ≤ c.a ∧ c.a < c.p ∧ 1 ≤ c.b ∧ c.b < c.p := by
  simp only [cfgValid, Bool.and_eq_true, decide_eq_true_eq, and_assoc]
  rfl

/-- Square-and-multiply from any accumulator. -/
theorem powLoop_modEq (x : Int) (e : Nat) (m : Int) (i : Nat) (acc : Int) :
    powLoop x e m acc i ≡ acc ^ 2 ^ i * x ^ (e % 2 ^ i) [ZMOD m] := by
  induction i generalizing acc with
  | zero => simp [powLoop, Nat.mod_one]
  | succ i ih =>
    have hbit : e % 2 ^ (i + 1) = 2 ^ i * (e.testBit i).toNat + e % 2 ^ i := by
      rw [Nat.mod_pow_succ, Nat.toNat_testBit, Nat.add_comm]
    rw [powLoop]
    refine (ih _).trans ?_
    rw [hbit, pow_add x, pow_mul x, pow_succ' 2 i, pow_mul acc, ← mul_assoc]
    refine Int.ModEq.mul_right _ ?_
    cases e.testBit i with
    | false =>
      simp only [Bool.false_eq_true, if_false, Bool.toNat_false, pow_zero, mul_one]
      exact (Int.mod_modEq _ _).pow _ |>.trans (by rw [pow_two])
    | true =>
      simp only [if_true, Bool.toNat_true, pow_one]
      rw [← mul_pow]
      refine Int.ModEq.pow _ ((Int.mod_modEq _ _).trans ?_)
      rw [pow_two]
      exact (Int.mod_modEq _ _).mul_right _

/-- Square-and-multiply keeps its accumulator reduced. -/
theorem powLoop_reduced (x : Int) (e : Nat) (m : Int) (i : Nat) (acc : Int) (h : mod acc m = acc) :
    mod (powLoop x e m acc i) m = powLoop x e m acc i := by
  induction i generalizing acc with
  | zero => exact h
  | succ i ih =>
    rw [powLoop]
    apply ih
    split <;> exact mod_mod _ _

/-- `2^(n-1) <= e < 2^n` for `n = bitlength(e)` (43_scalar.md R130). -/
theorem bitLength_spec {e : Nat} (h : e ≠ 0) : 2 ^ (bitLength e - 1) ≤ e ∧ e < 2 ^ bitLength e := by
  simp only [bitLength, h, if_false, Nat.add_sub_cancel]
  exact ⟨Nat.log2_self_le h, Nat.lt_log2_self⟩

theorem lt_two_pow_bitLength (e : Nat) : e < 2 ^ bitLength e := by
  by_cases h : e = 0
  · subst h
    decide
  · exact (bitLength_spec h).2

/-- `powmod(x, e, m) = mod(x^e, m)`, as the spec defines it (00_scope.md §4). -/
theorem powmod_eq (x : Int) (e : Nat) (m : Int) : powmod x e m = x ^ e % m := by
  have h := powLoop_modEq x e m (bitLength e) (mod 1 m)
  rw [Nat.mod_eq_of_lt (lt_two_pow_bitLength e)] at h
  have h1 : (mod 1 m) ^ 2 ^ bitLength e ≡ 1 [ZMOD m] := by
    simpa [mod] using (Int.mod_modEq 1 m).pow (2 ^ bitLength e)
  have h2 : powmod x e m % m = x ^ e % m := by
    simpa [Int.ModEq, powmod] using h.trans (h1.mul_right (x ^ e))
  rw [← h2]
  exact (powLoop_reduced x e m _ _ (mod_mod 1 m)).symm

end Sys2Proof.Machine
end

