-- ==== Sys2Proof/Laws/State.lean ====
section
/-! SUPPORT. What each named update of the state leaves in each field, one lemma a field and update, true by rfl; and
what reading a register after an update gives. -/

namespace Sys2Proof.Machine

variable (s : State)

/-! ### Issue -/

@[simp] theorem State.issueWith_status (left : Nat) (w : Word) : (s.issueWith left w).status =
    { s.status with done := false, bool := false, inf := false, err := none, lastop := opcodeField w } :=
  rfl

@[simp] theorem State.issueWith_ie (left : Nat) (w : Word) : (s.issueWith left w).ie = s.ie :=
  rfl

@[simp] theorem State.issueWith_cfg (left : Nat) (w : Word) : (s.issueWith left w).cfg = s.cfg :=
  rfl

@[simp] theorem State.issueWith_cur (left : Nat) (w : Word) : (s.issueWith left w).cur = s.cur :=
  rfl

@[simp] theorem State.issueWith_x1 (left : Nat) (w : Word) : (s.issueWith left w).x1 = s.x1 :=
  rfl

@[simp] theorem State.issueWith_y1 (left : Nat) (w : Word) : (s.issueWith left w).y1 = s.y1 :=
  rfl

@[simp] theorem State.issueWith_x2 (left : Nat) (w : Word) : (s.issueWith left w).x2 = s.x2 :=
  rfl

@[simp] theorem State.issueWith_y2 (left : Nat) (w : Word) : (s.issueWith left w).y2 = s.y2 :=
  rfl

@[simp] theorem State.issueWith_k (left : Nat) (w : Word) : (s.issueWith left w).k = s.k :=
  rfl

@[simp] theorem State.issueWith_rx (left : Nat) (w : Word) : (s.issueWith left w).rx = s.rx :=
  rfl

@[simp] theorem State.issueWith_ry (left : Nat) (w : Word) : (s.issueWith left w).ry = s.ry :=
  rfl

@[simp] theorem State.issueWith_flight (left : Nat) (w : Word) : (s.issueWith left w).flight =
    some { lat := s.latch w, left := left, loop := none } :=
  rfl

@[simp] theorem State.issueWith_env (left : Nat) (w : Word) : (s.issueWith left w).env = s.env :=
  rfl

/-! ### Issue with a drawn latency -/

@[simp] theorem State.issue_status (w : Word) : (s.issue w).status =
    { s.status with done := false, bool := false, inf := false, err := none, lastop := opcodeField w } :=
  rfl

@[simp] theorem State.issue_ie (w : Word) : (s.issue w).ie = s.ie :=
  rfl

@[simp] theorem State.issue_cfg (w : Word) : (s.issue w).cfg = s.cfg :=
  rfl

@[simp] theorem State.issue_cur (w : Word) : (s.issue w).cur = s.cur :=
  rfl

@[simp] theorem State.issue_x1 (w : Word) : (s.issue w).x1 = s.x1 :=
  rfl

@[simp] theorem State.issue_y1 (w : Word) : (s.issue w).y1 = s.y1 :=
  rfl

@[simp] theorem State.issue_x2 (w : Word) : (s.issue w).x2 = s.x2 :=
  rfl

@[simp] theorem State.issue_y2 (w : Word) : (s.issue w).y2 = s.y2 :=
  rfl

@[simp] theorem State.issue_k (w : Word) : (s.issue w).k = s.k :=
  rfl

@[simp] theorem State.issue_rx (w : Word) : (s.issue w).rx = s.rx :=
  rfl

@[simp] theorem State.issue_ry (w : Word) : (s.issue w).ry = s.ry :=
  rfl

@[simp] theorem State.issue_flight (w : Word) : (s.issue w).flight =
    some { lat := s.latch w, left := Config.internalSteps s.env.draws w (s.latch w).copies, loop := none } :=
  rfl

@[simp] theorem State.issue_env (w : Word) : (s.issue w).env = { s.env with draws := s.env.draws + 1 } :=
  rfl

/-! ### Completion with a result -/

@[simp] theorem State.complete_ok_status (w : Writes) : (s.complete (.ok w)).status =
    { s.status with bool := w.bool, inf := w.inf, err := none, done := true } :=
  rfl

@[simp] theorem State.complete_ok_ie (w : Writes) : (s.complete (.ok w)).ie = s.ie :=
  rfl

@[simp] theorem State.complete_ok_cfg (w : Writes) : (s.complete (.ok w)).cfg = s.cfg :=
  rfl

@[simp] theorem State.complete_ok_cur (w : Writes) : (s.complete (.ok w)).cur = w.cur.getD s.cur :=
  rfl

@[simp] theorem State.complete_ok_x1 (w : Writes) : (s.complete (.ok w)).x1 = s.x1 :=
  rfl

@[simp] theorem State.complete_ok_y1 (w : Writes) : (s.complete (.ok w)).y1 = s.y1 :=
  rfl

@[simp] theorem State.complete_ok_x2 (w : Writes) : (s.complete (.ok w)).x2 = s.x2 :=
  rfl

@[simp] theorem State.complete_ok_y2 (w : Writes) : (s.complete (.ok w)).y2 = s.y2 :=
  rfl

@[simp] theorem State.complete_ok_k (w : Writes) : (s.complete (.ok w)).k = s.k :=
  rfl

@[simp] theorem State.complete_ok_rx (w : Writes) : (s.complete (.ok w)).rx = w.rx.getD s.rx :=
  rfl

@[simp] theorem State.complete_ok_ry (w : Writes) : (s.complete (.ok w)).ry = w.ry.getD s.ry :=
  rfl

@[simp] theorem State.complete_ok_flight (w : Writes) : (s.complete (.ok w)).flight = none :=
  rfl

@[simp] theorem State.complete_ok_env (w : Writes) : (s.complete (.ok w)).env = s.env :=
  rfl

/-! ### Completion with an error -/

@[simp] theorem State.complete_error_status (e : Err) : (s.complete (.error e)).status =
    { s.status with err := some e, done := true } :=
  rfl

@[simp] theorem State.complete_error_ie (e : Err) : (s.complete (.error e)).ie = s.ie :=
  rfl

@[simp] theorem State.complete_error_cfg (e : Err) : (s.complete (.error e)).cfg = s.cfg :=
  rfl

@[simp] theorem State.complete_error_cur (e : Err) : (s.complete (.error e)).cur = s.cur :=
  rfl

@[simp] theorem State.complete_error_x1 (e : Err) : (s.complete (.error e)).x1 = s.x1 :=
  rfl

@[simp] theorem State.complete_error_y1 (e : Err) : (s.complete (.error e)).y1 = s.y1 :=
  rfl

@[simp] theorem State.complete_error_x2 (e : Err) : (s.complete (.error e)).x2 = s.x2 :=
  rfl

@[simp] theorem State.complete_error_y2 (e : Err) : (s.complete (.error e)).y2 = s.y2 :=
  rfl

@[simp] theorem State.complete_error_k (e : Err) : (s.complete (.error e)).k = s.k :=
  rfl

@[simp] theorem State.complete_error_rx (e : Err) : (s.complete (.error e)).rx = s.rx :=
  rfl

@[simp] theorem State.complete_error_ry (e : Err) : (s.complete (.error e)).ry = s.ry :=
  rfl

@[simp] theorem State.complete_error_flight (e : Err) : (s.complete (.error e)).flight = none :=
  rfl

@[simp] theorem State.complete_error_env (e : Err) : (s.complete (.error e)).env = s.env :=
  rfl

/-! ### Write-one-to-clear of STATUS -/

@[simp] theorem State.ackStatus_status (w : Word) : (s.ackStatus w).status =
    { s.status with
      done := if w.getLsbD 1 && !s.busy then false else s.status.done
      ovr := if w.getLsbD 4 then false else s.status.ovr } :=
  rfl

@[simp] theorem State.ackStatus_ie (w : Word) : (s.ackStatus w).ie = s.ie :=
  rfl

@[simp] theorem State.ackStatus_cfg (w : Word) : (s.ackStatus w).cfg = s.cfg :=
  rfl

@[simp] theorem State.ackStatus_cur (w : Word) : (s.ackStatus w).cur = s.cur :=
  rfl

@[simp] theorem State.ackStatus_x1 (w : Word) : (s.ackStatus w).x1 = s.x1 :=
  rfl

@[simp] theorem State.ackStatus_y1 (w : Word) : (s.ackStatus w).y1 = s.y1 :=
  rfl

@[simp] theorem State.ackStatus_x2 (w : Word) : (s.ackStatus w).x2 = s.x2 :=
  rfl

@[simp] theorem State.ackStatus_y2 (w : Word) : (s.ackStatus w).y2 = s.y2 :=
  rfl

@[simp] theorem State.ackStatus_k (w : Word) : (s.ackStatus w).k = s.k :=
  rfl

@[simp] theorem State.ackStatus_rx (w : Word) : (s.ackStatus w).rx = s.rx :=
  rfl

@[simp] theorem State.ackStatus_ry (w : Word) : (s.ackStatus w).ry = s.ry :=
  rfl

@[simp] theorem State.ackStatus_flight (w : Word) : (s.ackStatus w).flight = s.flight :=
  rfl

@[simp] theorem State.ackStatus_env (w : Word) : (s.ackStatus w).env = s.env :=
  rfl

/-! ### CTRL -/

@[simp] theorem State.writeCtrl_status (w : Word) : (s.writeCtrl w).status = s.status :=
  rfl

@[simp] theorem State.writeCtrl_ie (w : Word) : (s.writeCtrl w).ie = w.getLsbD 0 :=
  rfl

@[simp] theorem State.writeCtrl_cfg (w : Word) : (s.writeCtrl w).cfg = s.cfg :=
  rfl

@[simp] theorem State.writeCtrl_cur (w : Word) : (s.writeCtrl w).cur = s.cur :=
  rfl

@[simp] theorem State.writeCtrl_x1 (w : Word) : (s.writeCtrl w).x1 = s.x1 :=
  rfl

@[simp] theorem State.writeCtrl_y1 (w : Word) : (s.writeCtrl w).y1 = s.y1 :=
  rfl

@[simp] theorem State.writeCtrl_x2 (w : Word) : (s.writeCtrl w).x2 = s.x2 :=
  rfl

@[simp] theorem State.writeCtrl_y2 (w : Word) : (s.writeCtrl w).y2 = s.y2 :=
  rfl

@[simp] theorem State.writeCtrl_k (w : Word) : (s.writeCtrl w).k = s.k :=
  rfl

@[simp] theorem State.writeCtrl_rx (w : Word) : (s.writeCtrl w).rx = s.rx :=
  rfl

@[simp] theorem State.writeCtrl_ry (w : Word) : (s.writeCtrl w).ry = s.ry :=
  rfl

@[simp] theorem State.writeCtrl_flight (w : Word) : (s.writeCtrl w).flight = s.flight :=
  rfl

@[simp] theorem State.writeCtrl_env (w : Word) : (s.writeCtrl w).env = s.env :=
  rfl

/-! ### The reply -/

@[simp] theorem State.withReply_status (r : Reply) : (s.withReply r).status = s.status :=
  rfl

@[simp] theorem State.withReply_ie (r : Reply) : (s.withReply r).ie = s.ie :=
  rfl

@[simp] theorem State.withReply_cfg (r : Reply) : (s.withReply r).cfg = s.cfg :=
  rfl

@[simp] theorem State.withReply_cur (r : Reply) : (s.withReply r).cur = s.cur :=
  rfl

@[simp] theorem State.withReply_x1 (r : Reply) : (s.withReply r).x1 = s.x1 :=
  rfl

@[simp] theorem State.withReply_y1 (r : Reply) : (s.withReply r).y1 = s.y1 :=
  rfl

@[simp] theorem State.withReply_x2 (r : Reply) : (s.withReply r).x2 = s.x2 :=
  rfl

@[simp] theorem State.withReply_y2 (r : Reply) : (s.withReply r).y2 = s.y2 :=
  rfl

@[simp] theorem State.withReply_k (r : Reply) : (s.withReply r).k = s.k :=
  rfl

@[simp] theorem State.withReply_rx (r : Reply) : (s.withReply r).rx = s.rx :=
  rfl

@[simp] theorem State.withReply_ry (r : Reply) : (s.withReply r).ry = s.ry :=
  rfl

@[simp] theorem State.withReply_flight (r : Reply) : (s.withReply r).flight = s.flight :=
  rfl

@[simp] theorem State.withReply_env (r : Reply) : (s.withReply r).env = { s.env with reply := some r } :=
  rfl

/-! ### The agenda -/

@[simp] theorem State.withAgenda_status (ts : List Turn) : (s.withAgenda ts).status = s.status :=
  rfl

@[simp] theorem State.withAgenda_ie (ts : List Turn) : (s.withAgenda ts).ie = s.ie :=
  rfl

@[simp] theorem State.withAgenda_cfg (ts : List Turn) : (s.withAgenda ts).cfg = s.cfg :=
  rfl

@[simp] theorem State.withAgenda_cur (ts : List Turn) : (s.withAgenda ts).cur = s.cur :=
  rfl

@[simp] theorem State.withAgenda_x1 (ts : List Turn) : (s.withAgenda ts).x1 = s.x1 :=
  rfl

@[simp] theorem State.withAgenda_y1 (ts : List Turn) : (s.withAgenda ts).y1 = s.y1 :=
  rfl

@[simp] theorem State.withAgenda_x2 (ts : List Turn) : (s.withAgenda ts).x2 = s.x2 :=
  rfl

@[simp] theorem State.withAgenda_y2 (ts : List Turn) : (s.withAgenda ts).y2 = s.y2 :=
  rfl

@[simp] theorem State.withAgenda_k (ts : List Turn) : (s.withAgenda ts).k = s.k :=
  rfl

@[simp] theorem State.withAgenda_rx (ts : List Turn) : (s.withAgenda ts).rx = s.rx :=
  rfl

@[simp] theorem State.withAgenda_ry (ts : List Turn) : (s.withAgenda ts).ry = s.ry :=
  rfl

@[simp] theorem State.withAgenda_flight (ts : List Turn) : (s.withAgenda ts).flight = s.flight :=
  rfl

@[simp] theorem State.withAgenda_env (ts : List Turn) : (s.withAgenda ts).env = { s.env with agenda := ts } :=
  rfl

/-! ### Reset -/

@[simp] theorem resetTurn_status : (resetTurn s).status = State.reset.status :=
  rfl

@[simp] theorem resetTurn_ie : (resetTurn s).ie = State.reset.ie :=
  rfl

@[simp] theorem resetTurn_cfg : (resetTurn s).cfg = State.reset.cfg :=
  rfl

@[simp] theorem resetTurn_cur : (resetTurn s).cur = State.reset.cur :=
  rfl

@[simp] theorem resetTurn_x1 : (resetTurn s).x1 = State.reset.x1 :=
  rfl

@[simp] theorem resetTurn_y1 : (resetTurn s).y1 = State.reset.y1 :=
  rfl

@[simp] theorem resetTurn_x2 : (resetTurn s).x2 = State.reset.x2 :=
  rfl

@[simp] theorem resetTurn_y2 : (resetTurn s).y2 = State.reset.y2 :=
  rfl

@[simp] theorem resetTurn_k : (resetTurn s).k = State.reset.k :=
  rfl

@[simp] theorem resetTurn_rx : (resetTurn s).rx = State.reset.rx :=
  rfl

@[simp] theorem resetTurn_ry : (resetTurn s).ry = State.reset.ry :=
  rfl

@[simp] theorem resetTurn_flight : (resetTurn s).flight = State.reset.flight :=
  rfl

@[simp] theorem resetTurn_env : (resetTurn s).env = s.env :=
  rfl

/-! ### An internal step -/

@[simp] theorem internalStep_status (f : Flight) (left : Nat) : (internalStep s f left).status = s.status :=
  rfl

@[simp] theorem internalStep_ie (f : Flight) (left : Nat) : (internalStep s f left).ie = s.ie :=
  rfl

@[simp] theorem internalStep_cfg (f : Flight) (left : Nat) : (internalStep s f left).cfg = s.cfg :=
  rfl

@[simp] theorem internalStep_cur (f : Flight) (left : Nat) : (internalStep s f left).cur = s.cur :=
  rfl

@[simp] theorem internalStep_x1 (f : Flight) (left : Nat) : (internalStep s f left).x1 = s.x1 :=
  rfl

@[simp] theorem internalStep_y1 (f : Flight) (left : Nat) : (internalStep s f left).y1 = s.y1 :=
  rfl

@[simp] theorem internalStep_x2 (f : Flight) (left : Nat) : (internalStep s f left).x2 = s.x2 :=
  rfl

@[simp] theorem internalStep_y2 (f : Flight) (left : Nat) : (internalStep s f left).y2 = s.y2 :=
  rfl

@[simp] theorem internalStep_k (f : Flight) (left : Nat) : (internalStep s f left).k = s.k :=
  rfl

@[simp] theorem internalStep_rx (f : Flight) (left : Nat) : (internalStep s f left).rx = s.rx :=
  rfl

@[simp] theorem internalStep_ry (f : Flight) (left : Nat) : (internalStep s f left).ry = s.ry :=
  rfl

@[simp] theorem internalStep_flight (f : Flight) (left : Nat) : (internalStep s f left).flight =
    some (f.advance left) :=
  rfl

@[simp] theorem internalStep_env (f : Flight) (left : Nat) : (internalStep s f left).env = s.env :=
  rfl

/-! ### Reading a register -/

@[simp] theorem readReg_withReply (r : Reply) (g : Reg) : readReg (s.withReply r) g = readReg s g := by
  cases g <;> rfl

@[simp] theorem readReg_withAgenda (ts : List Turn) (g : Reg) : readReg (s.withAgenda ts) g = readReg s g := by
  cases g <;> rfl

@[simp] theorem irq_withReply (r : Reply) : (s.withReply r).irq = s.irq :=
  rfl

@[simp] theorem irq_withAgenda (ts : List Turn) : (s.withAgenda ts).irq = s.irq :=
  rfl

@[simp] theorem busy_eq_isSome : s.busy = s.flight.isSome :=
  rfl

/-- STATUS reads the same when its stored fields and BUSY are the same. -/
theorem statusWord_congr {s t : State} (hs : t.status = s.status) (hb : t.busy = s.busy) :
    t.statusWord = s.statusWord := by
  simp only [State.statusWord, hs, hb]

end Sys2Proof.Machine
end

