-- ==== Sys2Proof/Laws/Bus.lean ====
section
/-! SUPPORT. The byte lanes of a word, the offsets of the registers and of the window, and which accesses reach a
register (20_memory.md R40-R44). -/

namespace Sys2Proof.Machine

/-- The lanes of a word give back the word (20_memory.md R44). -/
@[simp] theorem ofLanes_lanesOf (v : Word) : ofLanes (lanesOf v) = v := by
  have hl : lanesOf v =
      [v.extractLsb' 0 8, v.extractLsb' 8 8, v.extractLsb' 16 8, v.extractLsb' 24 8, v.extractLsb' 32 8,
        v.extractLsb' 40 8, v.extractLsb' 48 8, v.extractLsb' 56 8] := rfl
  rw [hl]
  simp only [ofLanes, List.foldr]
  apply BitVec.eq_of_getLsbD_eq
  intro i hi
  interval_cases i <;> simp

@[simp] theorem lanesOf_length (v : Word) : (lanesOf v).length = 8 :=
  rfl

/-- The only register at an offset is the one whose offset it is (10_state.md R10). -/
theorem ofOffset_eq_some_iff (off : Offset) (r : Reg) : Reg.ofOffset off = some r ↔ off = r.offset := by
  revert off
  cases r <;> decide

/-- There is no register at an offset that is no multiple of 8 or is above 0x78 (10_state.md R20). -/
theorem ofOffset_eq_none_iff : ∀ off : Offset, Reg.ofOffset off = none ↔ off.toNat % 8 ≠ 0 ∨ 0x80 ≤ off.toNat := by
  decide

/-- An aligned 8-byte access below 0x80, and no other, reaches a register (20_memory.md R41-R43). -/
theorem target_eq_none_iff (a : Access) :
    a.target = none ↔ a.width ≠ 8 ∨ a.off.toNat % 8 ≠ 0 ∨ 0x80 ≤ a.off.toNat := by
  rw [← ofOffset_eq_none_iff]
  unfold Access.target
  split <;> simp_all

/-- A write of all the lanes of a word at a register's offset reaches that register. -/
@[simp] theorem target_write_lanesOf (r : Reg) (v : Word) : (Access.write r.offset (lanesOf v)).target = some r := by
  cases r <;> rfl

/-- An 8-byte read at a register's offset reaches that register. -/
@[simp] theorem target_read_offset (r : Reg) : (Access.read r.offset 8).target = some r := by
  cases r <;> rfl

theorem windowOffset_of_mem {addr : Nat} (h0 : Config.engineBase ≤ addr) (h : addr < Config.engineBase + 256) :
    windowOffset addr = some (BitVec.ofNat 8 (addr - Config.engineBase)) :=
  if_pos ⟨h0, h⟩

theorem windowOffset_of_not_mem {addr : Nat} (h : addr < Config.engineBase ∨ Config.engineBase + 256 ≤ addr) :
    windowOffset addr = none :=
  if_neg (by simp only [Config.windowSize]; omega)

end Sys2Proof.Machine
end

