-- ==== Sys2Proof/Laws/Ops.lean ====
section
/-! SUPPORT. What each shared operation can do, said once: the completion step, an engine step, a host access and a
whole step, each as the list of its cases. -/

namespace Sys2Proof.Machine

/-! ### Completion -/

/-- The outcome each command computes from what issue latched: `execute(w, lat)` (40_control.md R82). -/
def outcomeOf : Instr → Flight → Except Err Writes
  | .nop, _ => nopOutcome
  | .config, f => configOutcome f.lat
  | .red, f => redOutcome f.lat
  | .inv, f => invOutcome f.lat
  | .onCurve, f => onCurveOutcome f.lat
  | .dbl, f => dblOutcome f.lat
  | .add, f => addOutcome f.lat
  | .smul, f => smulOutcome f

/-- Every command is the completion step of its outcome. -/
theorem exec_eq_completing (i : Instr) (s : State) : exec i s = completing s (outcomeOf i) := by
  cases i <;> rfl

theorem completing_of_flight {s : State} {f : Flight} (run : Flight → Except Err Writes)
    (hf : s.flight = some f) : completing s run = .next (s.complete (run f)) := by
  simp only [completing, hf]

theorem completing_of_idle {s : State} (run : Flight → Except Err Writes) (hf : s.flight = none) :
    completing s run = .fault .noCommandInFlight := by
  simp only [completing, hf]

/-- A command that answers a next state completes the command in flight with its outcome. -/
theorem exec_next {i : Instr} {s t : State} (h : exec i s = .next t) :
    ∃ f, s.flight = some f ∧ t = s.complete (outcomeOf i f) := by
  rw [exec_eq_completing] at h
  cases hf : s.flight with
  | none => simp [completing_of_idle _ hf] at h
  | some f =>
    rw [completing_of_flight _ hf] at h
    exact ⟨f, rfl, (Host.Outcome.next.inj h).symm⟩

/-- A command in flight is completed with its outcome. -/
theorem exec_of_flight (i : Instr) {s : State} {f : Flight} (hf : s.flight = some f) :
    exec i s = .next (s.complete (outcomeOf i f)) := by
  rw [exec_eq_completing, completing_of_flight _ hf]

/-- What no completion changes, whatever its outcome: the operands, the staging curve, CTRL, OVR, LASTOP and the
environment; BUSY is cleared and DONE set (40_control.md R82). -/
theorem complete_frame (s : State) (o : Except Err Writes) :
    (s.complete o).x1 = s.x1 ∧ (s.complete o).y1 = s.y1 ∧ (s.complete o).x2 = s.x2 ∧ (s.complete o).y2 = s.y2 ∧
      (s.complete o).k = s.k ∧ (s.complete o).cfg = s.cfg ∧ (s.complete o).ie = s.ie ∧
      (s.complete o).env = s.env ∧ (s.complete o).flight = none ∧ (s.complete o).status.done = true ∧
      (s.complete o).status.ovr = s.status.ovr ∧ (s.complete o).status.lastop = s.status.lastop := by
  cases o <;> simp

/-! ### Decoding -/

/-- A decoded word's OPCODE is the command's (30_encoding.md R61). -/
theorem opcode_of_decodeWord {w : Word} {i : Instr} (h : decodeWord w = .ok i) : opcodeField w = opcodeOf i := by
  have key : ∀ op : BitVec 4, ofOpcode op = .ok i → op = opcodeOf i := by
    cases i <;> decide
  unfold decodeWord at h
  split at h
  · cases h
  · exact key _ h

/-! ### Registers of the window -/

/-- A register is the one at its own offset (10_state.md R10). -/
@[simp] theorem ofOffset_offset (r : Reg) : Reg.ofOffset r.offset = some r := by
  cases r <;> rfl

/-- A host write changes neither the results nor the active curve (20_memory.md R42). -/
theorem writeReg_results (s : State) (r : Reg) (v : Word) :
    (writeReg s r v).rx = s.rx ∧ (writeReg s r v).ry = s.ry ∧ (writeReg s r v).cur = s.cur := by
  cases r
  case cmd =>
    simp only [writeReg, State.writeCmd]
    split <;> simp
  all_goals simp [writeReg]

/-- A host write while BUSY leaves the command in flight alone (20_memory.md R42, 10_state.md R24). -/
theorem writeReg_flight_of_busy {s : State} {f : Flight} (hf : s.flight = some f) (r : Reg) (v : Word) :
    (writeReg s r v).flight = some f := by
  cases r <;> simp [writeReg, State.writeCmd, hf]

/-- A host write leaves the environment alone but for the latency drawn by an accepted issue. -/
theorem writeReg_env (s : State) (r : Reg) (v : Word) :
    (writeReg s r v).env.agenda = s.env.agenda ∧ (writeReg s r v).env.reply = s.env.reply := by
  cases r
  case cmd =>
    simp only [writeReg, State.writeCmd]
    split <;> simp
  all_goals simp [writeReg]

/-! ### Steps -/

/-- The engine's step: nothing when idle, an internal step, or the completion step of the decoded or illegal word. -/
theorem engineTurn_cases (s : State) :
    (s.flight = none ∧ engineTurn s = .next s) ∨
    (∃ f left, s.flight = some f ∧ f.left = left + 1 ∧ engineTurn s = .next (internalStep s f left)) ∨
    (∃ f i, s.flight = some f ∧ f.left = 0 ∧ decodeWord f.lat.cmd = .ok i ∧
      engineTurn s = .next (s.complete (outcomeOf i f))) ∨
    (∃ f r, s.flight = some f ∧ f.left = 0 ∧ decodeWord f.lat.cmd = .error r ∧
      engineTurn s = .next (s.complete (.error .illegal))) := by
  cases hf : s.flight with
  | none => exact .inl ⟨rfl, by simp only [engineTurn, hf]⟩
  | some f =>
    cases hl : f.left with
    | succ left => exact .inr (.inl ⟨f, left, rfl, hl, by simp only [engineTurn, hf, hl]⟩)
    | zero =>
      cases hd : decodeWord f.lat.cmd with
      | ok i =>
        refine .inr (.inr (.inl ⟨f, i, rfl, hl, hd, ?_⟩))
        simp only [engineTurn, hf, hl, completionStep, hd, exec_of_flight i hf]
      | error r =>
        refine .inr (.inr (.inr ⟨f, r, rfl, hl, hd, ?_⟩))
        simp only [engineTurn, hf, hl, completionStep, hd]

/-- The host's step: a read, a write, or an error response (20_memory.md R41-R43). -/
theorem hostTurn_cases (a : Access) (s : State) :
    (∃ r, a.target = some r ∧ (∃ off n, a = .read off n) ∧
      hostTurn a s = .next (s.withReply (.data (lanesOf (readReg s r))))) ∨
    (∃ r off lanes, a.target = some r ∧ a = .write off lanes ∧
      hostTurn a s = .next ((writeReg s r (ofLanes lanes)).withReply .written)) ∨
    (a.target = none ∧ hostTurn a s = .fault (.errorResponse a a.errorData)) := by
  cases ht : a.target with
  | none => exact .inr (.inr ⟨rfl, by simp only [hostTurn, ht]⟩)
  | some r =>
    cases a with
    | read off n => exact .inl ⟨r, rfl, ⟨off, n, rfl⟩, by simp only [hostTurn, ht, access]⟩
    | write off lanes => exact .inr (.inl ⟨r, off, lanes, rfl, rfl, by simp only [hostTurn, ht, access]⟩)

theorem popTurn_nil {s : State} (h : s.env.agenda = []) : s.popTurn = (.engine, s) := by
  simp only [State.popTurn, h]

theorem popTurn_cons {s : State} {t : Turn} {ts : List Turn} (h : s.env.agenda = t :: ts) :
    s.popTurn = (t, s.withAgenda ts) := by
  simp only [State.popTurn, h]

theorem step_nil {s : State} (h : s.env.agenda = []) : step s = engineTurn s := by
  simp only [step, popTurn_nil h, takeTurn]

theorem step_cons {s : State} {t : Turn} {ts : List Turn} (h : s.env.agenda = t :: ts) :
    step s = takeTurn t (s.withAgenda ts) := by
  simp only [step, popTurn_cons h]

/-- When the engine has the turn, the step is the engine's. -/
theorem step_of_engine {s u : State} (h : s.popTurn = (.engine, u)) : step s = engineTurn u := by
  simp only [step, h, takeTurn]

/-- The state whose turn it is differs from `s` at most in the agenda. -/
theorem popTurn_state (s : State) : ∃ ts, s.popTurn.2 = s.withAgenda ts := by
  cases h : s.env.agenda with
  | nil => exact ⟨[], by rw [popTurn_nil h, State.withAgenda, ← h]⟩
  | cons t ts => exact ⟨ts, by rw [popTurn_cons h]⟩

end Sys2Proof.Machine
end

