-- ==== Sys2Proof/Laws/PerInstr.lean ====
section
/-! SUPPORT. What holds of every command as syntax, one lemma a constructor: it is well formed, its word is a valid
command word, and the word's fields are RSVD = 0 and the command's OPCODE (30_encoding.md R60, R61). -/

namespace Sys2Proof.Laws.WordFields

def Statement (i : Instr) : Prop :=
  i.wellFormed = true ∧ commandWellFormed (encode i) = true ∧ opcodeField (encode i) = opcodeOf i ∧
    reservedField (encode i) = 0

theorem nop : Statement .nop := by unfold Statement; decide

theorem config : Statement .config := by unfold Statement; decide

theorem red : Statement .red := by unfold Statement; decide

theorem inv : Statement .inv := by unfold Statement; decide

theorem onCurve : Statement .onCurve := by unfold Statement; decide

theorem dbl : Statement .dbl := by unfold Statement; decide

theorem add : Statement .add := by unfold Statement; decide

theorem smul : Statement .smul := by unfold Statement; decide

end Sys2Proof.Laws.WordFields
end

