-- ==== Sys2Proof/Laws/Point.lean ====
section
/-! SUPPORT. What the field inverse and the point functions answer under a legal curve: a canonical value and no error
(41_field.md R91, 42_point.md R102, R104, R109). -/

namespace Sys2Proof.Machine

variable {c : Params} {P Q acc : Point}

theorem reduce_nonneg (hp : 0 < c.p) (x : Int) : 0 ≤ reduce c x := mod_nonneg x hp

theorem reduce_lt (hp : 0 < c.p) (x : Int) : reduce c x < c.p := mod_lt x hp

/-- A legal curve's modulus is positive. -/
theorem modulus_pos (hc : cfgValid c = true) : 0 < c.p := by
  have := (cfgValid_iff c).1 hc
  omega

/-- The field inverse raises DIV_ZERO exactly on the multiples of the modulus (41_field.md R91). -/
theorem feInv_error_iff (c : Params) (v : Int) : feInv c v = .error .divZero ↔ reduce c v = 0 := by
  unfold feInv
  split <;> simp_all

/-- Otherwise it is the power the spec gives (41_field.md R91). -/
theorem feInv_ok (v : Int) (h : reduce c v ≠ 0) :
    feInv c v = .ok (reduce c v ^ (c.p - 2).toNat % c.p) := by
  simp only [feInv, h, if_false, powmod_eq]

theorem isInf_iff (P : Point) : P.isInf = true ↔ P = Point.inf := by
  cases P
  simp [Point.isInf, Point.inf]

theorem inf_canonical (hp : 0 < c.p) : Point.inf.Canonical c := ⟨le_rfl, hp, le_rfl, hp⟩

/-- A line's third point is canonical (42_point.md R109). -/
theorem chord_canonical (hp : 0 < c.p) (lam x1 y1 x2 : Int) : (chord c lam x1 y1 x2).Canonical c :=
  ⟨reduce_nonneg hp _, reduce_lt hp _, reduce_nonneg hp _, reduce_lt hp _⟩

/-- The slope through a denominator that is not a multiple of the modulus. -/
theorem lineSlope_ok (num : Int) {den : Int} (h : reduce c den ≠ 0) :
    lineSlope c num den = .ok (mod (reduce c num * (reduce c den ^ (c.p - 2).toNat % c.p)) c.p) := by
  simp only [lineSlope, feInv_ok den h]

/-- `2y` is no multiple of an odd modulus for `0 < y < p` (40_control.md R85). -/
theorem reduce_two_mul_ne_zero (hc : cfgValid c = true) {y : Int} (h0 : 0 ≤ y) (hy : y < c.p) (hne : y ≠ 0) :
    reduce c (2 * y) ≠ 0 := by
  obtain ⟨-, -, hodd, -⟩ := (cfgValid_iff c).1 hc
  intro h
  obtain ⟨q, hq⟩ := Int.dvd_of_emod_eq_zero h
  have hp : 0 < c.p := modulus_pos hc
  have hy0 : 0 < y := by omega
  have hq0 : 0 < q := by nlinarith
  have hq2 : q < 2 := by nlinarith
  obtain rfl : q = 1 := by omega
  omega

/-- The difference of two distinct canonical values is no multiple of the modulus (42_point.md R104). -/
theorem reduce_sub_ne_zero {x y : Int} (hx0 : 0 ≤ x) (hx : x < c.p) (hy0 : 0 ≤ y) (hy : y < c.p) (hne : x ≠ y) :
    reduce c (y - x) ≠ 0 := by
  intro h
  obtain ⟨q, hq⟩ := Int.dvd_of_emod_eq_zero h
  have hq1 : q < 1 := by nlinarith
  have hq2 : -1 < q := by nlinarith
  obtain rfl : q = 0 := by omega
  omega

/-- Doubling a canonical point under a legal curve raises nothing and gives a canonical point. -/
theorem ptDouble_spec (hc : cfgValid c = true) (hP : P.Canonical c) :
    ∃ R, ptDouble c P = .ok R ∧ R.Canonical c := by
  have hp := modulus_pos hc
  unfold ptDouble
  split
  · exact ⟨_, rfl, inf_canonical hp⟩
  · split
    · exact ⟨_, rfl, inf_canonical hp⟩
    · rename_i hy
      rw [lineSlope_ok _ (reduce_two_mul_ne_zero hc hP.2.2.1 hP.2.2.2 hy)]
      exact ⟨_, rfl, chord_canonical hp _ _ _ _⟩

/-- Adding canonical points under a legal curve raises nothing and gives a canonical point. -/
theorem ptAdd_spec (hc : cfgValid c = true) (hP : P.Canonical c) (hQ : Q.Canonical c) :
    ∃ R, ptAdd c P Q = .ok R ∧ R.Canonical c := by
  have hp := modulus_pos hc
  unfold ptAdd
  split
  · exact ⟨_, rfl, hQ⟩
  · split
    · exact ⟨_, rfl, hP⟩
    · split
      · exact ptDouble_spec hc hP
      · split
        · exact ⟨_, rfl, inf_canonical hp⟩
        · rename_i hx
          rw [lineSlope_ok _ (reduce_sub_ne_zero hP.1 hP.2.1 hQ.1 hQ.2.1 hx)]
          exact ⟨_, rfl, chord_canonical hp _ _ _ _⟩

/-- One iteration of SMUL's loop on canonical points. -/
theorem smulIter_spec (hc : cfgValid c = true) (hP : P.Canonical c) (hacc : acc.Canonical c) (bit : Bool) :
    ∃ R, smulIter c P acc bit = .ok R ∧ R.Canonical c := by
  obtain ⟨d, hd, hdc⟩ := ptDouble_spec hc hacc
  simp only [smulIter, hd]
  split
  · split
    · exact ⟨_, rfl, hP⟩
    · exact ptAdd_spec hc hdc hP
  · exact ⟨_, rfl, hdc⟩

/-- SMUL's loop on canonical points. -/
theorem smulLoop_spec (hc : cfgValid c = true) (hP : P.Canonical c) (k : Nat) (i : Nat) {acc : Point}
    (hacc : acc.Canonical c) : ∃ R, smulLoop c P k acc i = .ok R ∧ R.Canonical c := by
  induction i generalizing acc with
  | zero => exact ⟨_, rfl, hacc⟩
  | succ i ih =>
    obtain ⟨R, hR, hRc⟩ := smulIter_spec hc hP hacc (k.testBit i)
    simp only [smulLoop, hR]
    exact ih hRc

/-- `pt_smul` of a canonical point. -/
theorem ptSmul_spec (hc : cfgValid c = true) (hP : P.Canonical c) (k : Nat) :
    ∃ R, ptSmul c P k = .ok R ∧ R.Canonical c := by
  unfold ptSmul
  split
  · exact ⟨_, rfl, inf_canonical (modulus_pos hc)⟩
  · split
    · exact ⟨_, rfl, hP⟩
    · exact smulLoop_spec hc hP k _ hP

/-- The first point of canonical operands is canonical. -/
theorem point1_canonical {l : Latched} (h : l.canon1 = true) : l.point1.Canonical l.params := by
  simp only [Latched.canon1, Bool.and_eq_true, canon_iff] at h
  exact ⟨h.1.1, h.1.2, h.2.1, h.2.2⟩

/-- The second point of canonical operands is canonical. -/
theorem point2_canonical {l : Latched} (h : l.canon2 = true) : l.point2.Canonical l.params := by
  simp only [Latched.canon2, Bool.and_eq_true, canon_iff] at h
  exact ⟨h.1.1, h.1.2, h.2.1, h.2.2⟩

end Sys2Proof.Machine
end

