-- ==== Sys2Proof/Laws/Run.lean ====
section
/-! SUPPORT. Runs of several steps, one step and one run at a time. -/

namespace Sys2Proof.Machine

/-- A run whose first step answers a next state goes on from it. -/
theorem run_next {s t : State} (k : Nat) (h : step s = .next t) : core.run (k + 1) s = core.run k t := by
  have h' : core.step s = .next t := h
  simp only [Host.Core.run, h']

/-- A run in two parts. -/
theorem run_add (a b : Nat) {s t : State} (h : core.run a s = .next t) : core.run (a + b) s = core.run b t := by
  induction a generalizing s with
  | zero =>
    cases h
    simp
  | succ a ih =>
    cases hs : core.step s with
    | next u =>
      rw [run_next _ hs] at h
      rw [Nat.add_right_comm, run_next _ hs]
      exact ih h
    | fault r => simp [Host.Core.run, hs] at h
    | refused r => simp [Host.Core.run, hs] at h

end Sys2Proof.Machine
end

