-- ==== Sys2Proof/Laws/Scalar.lean ====
section
/-! SUPPORT. The length of a scalar, and what the point functions answer under any modulus (43_scalar.md R130,
42_point.md R109). -/

namespace Sys2Proof.Machine

variable {c : Params} {P Q R acc : Point} {k : Nat}

/-- `bitlength(k)` is the only `n` with `2^(n-1) <= k < 2^n` (43_scalar.md R130). -/
theorem bitLength_eq {n : Nat} (hn : 1 ≤ n) (h0 : 2 ^ (n - 1) ≤ k) (h1 : k < 2 ^ n) : bitLength k = n := by
  have hk : k ≠ 0 := by
    have := Nat.two_pow_pos (n - 1)
    omega
  obtain ⟨a, b⟩ := bitLength_spec hk
  have ha : bitLength k - 1 < n := (Nat.pow_lt_pow_iff_right (by norm_num : 1 < 2)).1 (lt_of_le_of_lt a h1)
  have hb : n - 1 < bitLength k := (Nat.pow_lt_pow_iff_right (by norm_num : 1 < 2)).1 (lt_of_le_of_lt h0 b)
  omega

/-- For `k >= 1`, `pt_smul` is its loop from the point itself. -/
theorem ptSmul_of_pos (h : 1 ≤ k) : ptSmul c P k = smulLoop c P k P (bitLength k - 1) := by
  unfold ptSmul
  rw [if_neg (by omega)]
  split
  · rename_i h1
    subst h1
    rfl
  · rfl

/-- Doubling a canonical point answers a canonical point, if anything. -/
theorem ptDouble_canonical (hP : P.Canonical c) (h : ptDouble c P = .ok R) : R.Canonical c := by
  have hp : 0 < c.p := lt_of_le_of_lt hP.1 hP.2.1
  unfold ptDouble at h
  split at h
  · cases h
    exact inf_canonical hp
  · split at h
    · cases h
      exact inf_canonical hp
    · split at h
      · cases h
        exact chord_canonical hp _ _ _ _
      · cases h

/-- Adding canonical points answers a canonical point, if anything. -/
theorem ptAdd_canonical (hP : P.Canonical c) (hQ : Q.Canonical c) (h : ptAdd c P Q = .ok R) : R.Canonical c := by
  have hp : 0 < c.p := lt_of_le_of_lt hP.1 hP.2.1
  unfold ptAdd at h
  split at h
  · cases h
    exact hQ
  · split at h
    · cases h
      exact hP
    · split at h
      · exact ptDouble_canonical hP h
      · split at h
        · cases h
          exact inf_canonical hp
        · split at h
          · cases h
            exact chord_canonical hp _ _ _ _
          · cases h

/-- An iteration of SMUL's loop on canonical points answers a canonical point, if anything. -/
theorem smulIter_canonical {bit : Bool} (hP : P.Canonical c) (hacc : acc.Canonical c)
    (h : smulIter c P acc bit = .ok R) : R.Canonical c := by
  unfold smulIter at h
  split at h
  · cases h
  · rename_i d hd
    have hdc := ptDouble_canonical hacc hd
    split at h
    · split at h
      · cases h
        exact hP
      · exact ptAdd_canonical hdc hP h
    · cases h
      exact hdc

/-- SMUL's loop on canonical points answers a canonical point, if anything. -/
theorem smulLoop_canonical (hP : P.Canonical c) (i : Nat) (hacc : acc.Canonical c)
    (h : smulLoop c P k acc i = .ok R) : R.Canonical c := by
  induction i generalizing acc with
  | zero =>
    cases h
    exact hacc
  | succ i ih =>
    rw [smulLoop] at h
    split at h
    · cases h
    · rename_i acc' hi
      exact ih (smulIter_canonical hP hacc hi) h

/-- `pt_smul` of a canonical point answers a canonical point, if anything. -/
theorem ptSmul_canonical (hP : P.Canonical c) (h : ptSmul c P k = .ok R) : R.Canonical c := by
  unfold ptSmul at h
  split at h
  · cases h
    exact inf_canonical (lt_of_le_of_lt hP.1 hP.2.1)
  · split at h
    · cases h
      exact hP
    · exact smulLoop_canonical hP _ hP h

/-- A consistent loop, begun or not, finishes with `pt_smul`. -/
theorem smulFinish_eq {f : Flight} (hl : ∀ l, f.loop = some l → f.LoopConsistent l) :
    smulFinish f = ptSmul f.lat.params f.lat.point1 f.lat.scalar := by
  unfold smulFinish
  cases h : f.loop with
  | none => rfl
  | some l => exact (hl l h).rest

end Sys2Proof.Machine
end

