-- ==== Sys2Proof/Tests/Slice0.lean ====
section
/-! SUPPORT. Tests of single steps, with expected values from spec/95_test_vectors.md (V-...) and the encoding of
spec/30_encoding.md, and a named witness for every statement that has hypotheses. -/

namespace Sys2Proof.Tests

open Sys2Proof.Machine

/-! ### Small states -/

/-- A curve of numbers. -/
def curve (p a b : Nat) : Curve := { p := BitVec.ofNat 64 p, a := BitVec.ofNat 64 a, b := BitVec.ofNat 64 b }

/-- The reset state with operands, negative ones as their two's-complement patterns (30_encoding.md R68). -/
def loaded (x1 y1 x2 y2 k : Int) : State :=
  { State.reset with
    x1 := hostValue x1, y1 := hostValue y1, x2 := hostValue x2, y2 := hostValue y2, k := hostValue k }

/-- `s` under another active curve. -/
def under (c : Curve) (s : State) : State := { s with cur := c }

/-- The reset state with a staging curve. -/
def staged (p a b : Nat) : State := { State.reset with cfg := curve p a b }

/-- `s` with `i` issued and no internal step left. -/
def issued (i : Instr) (s : State) : State := s.issueWith 0 (encode i)

/-- The command in flight after `issued i s`. -/
def flightOf (i : Instr) (s : State) : Flight := { lat := s.latch (encode i), left := 0, loop := none }

/-- An SMUL of `k * (6, 5)` with `left` internal steps left, its loop begun. -/
def smulBegun (k left : Nat) : State :=
  let s := (loaded 6 5 0 0 k).issueWith left (encode .smul)
  { s with flight := some { lat := (loaded 6 5 0 0 k).latch (encode .smul), left := left,
                            loop := some ⟨⟨6, 5⟩, bitLength k - 1⟩ } }

/-- RX, RY and STATUS of a next state. -/
def seen : Host.Outcome State Fault Refusal → Option (Word × Word × Word)
  | .next t => some (t.rx, t.ry, t.statusWord)
  | .fault _ => none
  | .refused _ => none

/-- The active curve of a next state. -/
def seenCurve : Host.Outcome State Fault Refusal → Option Curve
  | .next t => some t.cur
  | .fault _ => none
  | .refused _ => none

/-- What an access leaves in register `r`, or the data of its error response. -/
def seenAt (r : Reg) : Host.Outcome State Fault Refusal → Word ⊕ List Byte
  | .next t => .inl (readReg t r)
  | .fault (.errorResponse _ data) => .inr data
  | .fault .noCommandInFlight => .inr []
  | .refused _ => .inr []

/-! ### Well-formedness: each check refuses an ill-formed word -/

/-- Bit 4 of RSVD set (V-ILL-3). -/
theorem test_reservedClear_refuses : reservedClear 0x10 = false := by decide

/-- Bit 63 of RSVD set (V-ILL-4). -/
theorem test_reservedClear_refuses_top : reservedClear 0x8000000000000007 = false := by decide

/-- OPCODE 8 is reserved (V-ILL-1). -/
theorem test_opcodeAssigned_refuses : opcodeAssigned 0x8 = false := by decide

/-- Either check refuses the word. -/
theorem test_commandWellFormed_refuses :
    commandWellFormed 0x12 = false ∧ commandWellFormed 0xF = false ∧ commandWellFormed 0x7 = true := by decide

/-- A misaligned, a reserved, a narrow and a wide access reach no register (R43). -/
theorem test_target_refuses :
    (Access.read 0x04 8).target = none ∧ (Access.read 0x80 8).target = none ∧ (Access.read 0x48 4).target = none ∧
      (Access.write 0x48 (List.replicate 16 0)).target = none := by decide

/-! ### Decoding: words written out bit by bit from 30_encoding.md R60, R61 -/

/-- RSVD 63:4 zero, OPCODE 3:0 = 0x0. -/
theorem test_decode_nop :
    decodeWord 0b0000000000000000000000000000000000000000000000000000000000000000 = .ok .nop := by decide

/-- RSVD 63:4 zero, OPCODE 3:0 = 0x1. -/
theorem test_decode_config :
    decodeWord 0b0000000000000000000000000000000000000000000000000000000000000001 = .ok .config := by decide

/-- RSVD 63:4 zero, OPCODE 3:0 = 0x2. -/
theorem test_decode_red :
    decodeWord 0b0000000000000000000000000000000000000000000000000000000000000010 = .ok .red := by decide

/-- RSVD 63:4 zero, OPCODE 3:0 = 0x3. -/
theorem test_decode_inv :
    decodeWord 0b0000000000000000000000000000000000000000000000000000000000000011 = .ok .inv := by decide

/-- RSVD 63:4 zero, OPCODE 3:0 = 0x4. -/
theorem test_decode_onCurve :
    decodeWord 0b0000000000000000000000000000000000000000000000000000000000000100 = .ok .onCurve := by decide

/-- RSVD 63:4 zero, OPCODE 3:0 = 0x5. -/
theorem test_decode_dbl :
    decodeWord 0b0000000000000000000000000000000000000000000000000000000000000101 = .ok .dbl := by decide

/-- RSVD 63:4 zero, OPCODE 3:0 = 0x6. -/
theorem test_decode_add :
    decodeWord 0b0000000000000000000000000000000000000000000000000000000000000110 = .ok .add := by decide

/-- RSVD 63:4 zero, OPCODE 3:0 = 0x7. -/
theorem test_decode_smul :
    decodeWord 0b0000000000000000000000000000000000000000000000000000000000000111 = .ok .smul := by decide

/-- Bits 63 and 4, and OPCODE 8 and 15 (30_encoding.md R62, R63; V-ILL). -/
theorem test_decode_rejects :
    decodeWord 0x8000000000000007 = .error .reservedBits ∧ decodeWord 0x12 = .error .reservedBits ∧
      decodeWord 0x8 = .error .reservedOpcode ∧ decodeWord 0xF = .error .reservedOpcode := by decide

/-- Seven bytes are no command word (30_encoding.md R67). -/
theorem test_decode_tooShort : decodeBytes [7, 0, 0, 0, 0, 0, 0] = .error .tooShort := by decide

/-- The table numbers bit 0 as the least significant. -/
theorem test_decodeTableWord : decodeTableWord 64 6 = some .add ∧ decodeTableWord 64 0x106 = none := by decide

/-! ### One step of each command -/

/-- V-CTL-2: NOP after an INV of 0 clears ERR. -/
theorem test_nop_clears_err :
    seen (exec .nop (issued .nop ((issued .inv State.reset).failedWith .divZero))) = some (0, 0, 0x0002) := by decide

/-- V-CFG-8: the largest legal modulus. -/
theorem test_config_largest :
    seenCurve (exec .config (issued .config (staged (2 ^ 63 - 1) 0 1))) = some (curve (2 ^ 63 - 1) 0 1) := by decide

/-- V-CFG-11: `b = p` is refused and the old curve stays. -/
theorem test_config_refuses :
    let o := exec .config (issued .config (staged 17 2 17))
    seenCurve o = some (curve 101 35 3) ∧ seen o = some (0, 0, 0x1202) := by decide

/-- V-RED-4: -1 reduces to `p - 1`. -/
theorem test_red_negative : seen (exec .red (issued .red (loaded (-1) 0 0 0 0))) = some (100, 0, 0x2002) := by decide

/-- V-RED-8: the smallest `sint64`. -/
theorem test_red_smallest :
    seen (exec .red (issued .red (loaded (-9223372036854775808) 0 0 0 0))) = some (11, 0, 0x2002) := by decide

/-- V-INV-10: the inverse of -2^63. -/
theorem test_inv_smallest :
    seen (exec .inv (issued .inv (loaded (-9223372036854775808) 0 0 0 0))) = some (46, 0, 0x3002) := by decide

/-- V-INV-15: a composite modulus gives the formula's value. -/
theorem test_inv_composite :
    seen (exec .inv (issued .inv (under (curve 9 0 1) (loaded 3 0 0 0 0)))) = some (0, 0, 0x3002) := by decide

/-- V-ONC-3: the sentinel. -/
theorem test_onCurve_sentinel : seen (exec .onCurve (issued .onCurve State.reset)) = some (0, 0, 0x4006) := by decide

/-- V-ONC-5: `(p, 0)` is not the sentinel. -/
theorem test_onCurve_literal :
    seen (exec .onCurve (issued .onCurve (loaded 101 0 0 0 0))) = some (0, 0, 0x4002) := by decide

/-- V-DBL-1: the example of R103. -/
theorem test_dbl : seen (exec .dbl (issued .dbl (loaded 6 5 0 0 0))) = some (42, 66, 0x5002) := by decide

/-- V-DBL-9: `y = p` is out of range. -/
theorem test_dbl_range : seen (exec .dbl (issued .dbl (loaded 2 101 0 0 0))) = some (0, 0, 0x5302) := by decide

/-- V-ADD-15: a generic addition. -/
theorem test_add : seen (exec .add (issued .add (loaded 9 21 92 75 0))) = some (9, 80, 0x6002) := by decide

/-- V-ADD-8: a result (0, 0) of the formulas is reported as INF. -/
theorem test_add_literal_inf : seen (exec .add (issued .add (loaded 1 2 3 6 0))) = some (0, 0, 0x600A) := by decide

/-- V-SMUL-7: the accumulator passes through infinity. -/
theorem test_smul_special_case :
    seen (exec .smul (issued .smul (loaded 2 9 0 0 5))) = some (2, 9, 0x7002) := by decide

/-- V-SMUL-21: RANGE is checked before `k = 0`. -/
theorem test_smul_range_first :
    seen (exec .smul (issued .smul (loaded 101 0 0 0 0))) = some (0, 0, 0x7302) := by decide

/-- V-ILL-4: an illegal word is not executed. -/
theorem test_illegal_word :
    seen (takeTurn .engine ((loaded 6 5 0 0 3).issueWith 0 0x8000000000000007)) = some (0, 0, 0x7102) := by decide

/-- The words of the table run as the next step after reset. -/
theorem test_withFetchWord :
    seen (step (State.reset.withFetchWord 64 5)) = some (0, 0, 0x500A) ∧
      seen (step (State.reset.withFetchWord 64 8)) = some (0, 0, 0x8102) := by decide

/-! ### The register window -/

/-- V-BUS-4: only IE is stored. -/
theorem test_bus_ctrl : seenAt .ctrl (hostTurn (.write 0x10 (List.replicate 8 0xFF)) State.reset) = .inl 1 := by decide

/-- V-BUS-2: a write to CUR_P is ignored. -/
theorem test_bus_readOnly :
    seenAt .curP (hostTurn (.write 0x30 [7, 0, 0, 0, 0, 0, 0, 0]) State.reset) = .inl 101 := by decide

/-- V-BUS-10: lane 0 carries the low byte. -/
theorem test_bus_lanes :
    seenAt .x1 (hostTurn (.write 0x48 [0xEF, 0xCD, 0xAB, 0x89, 0x67, 0x45, 0x23, 0x01]) State.reset) =
      .inl 0x0123456789ABCDEF := by decide

/-- V-BUS-11: an acknowledgement while busy has no effect. -/
theorem test_bus_ack_busy :
    seenAt .status (hostTurn (.write 0x08 [2, 0, 0, 0, 0, 0, 0, 0]) (issued .nop State.reset)) = .inl 1 := by decide

/-- V-BUS-9: a 4-byte read gets an error response with data 0. -/
theorem test_bus_error : seenAt .x1 (hostTurn (.read 0x48 4) (loaded 6 5 0 0 0)) = .inr [0, 0, 0, 0] := by decide

/-- Program P5, line 7: a CMD write while busy is dropped and sets OVR. -/
theorem test_overrun :
    seenAt .status (hostTurn (.write 0x00 (List.replicate 8 0)) (issued .smul (loaded 6 5 0 0 100))) =
      .inl 0x7011 := by decide

/-- The accesses of program P6, line 1, and a negative value (30_encoding.md R68, R69). -/
theorem test_notation :
    ldCurve 17 2 2 1 =
      [.host (.write 0x18 [17, 0, 0, 0, 0, 0, 0, 0]), .host (.write 0x20 [2, 0, 0, 0, 0, 0, 0, 0]),
        .host (.write 0x28 [2, 0, 0, 0, 0, 0, 0, 0]), .host (.write 0x00 [1, 0, 0, 0, 0, 0, 0, 0]),
        .host (.read 0x08 8)] ∧
      wr .x1 (-1) = .host (.write 0x48 (List.replicate 8 0xFF)) := by decide

/-! ### Witnesses: every hypothesis of every statement is met, each clause at a boundary of its range -/

theorem witness_DecodeEncodeAgree : Instr.smul.wellFormed = true := by decide

theorem witness_StepTakesTheNextTurn :
    State.reset.env.agenda = [] ∧
      (State.reset.withAgenda [.reset, .engine]).env.agenda = .reset :: [.engine] := ⟨rfl, rfl⟩

/-- With the agenda empty and with the engine at its head. -/
theorem witness_StepRunsDecodedCommand :
    let u := issued .smul State.reset
    u.popTurn = (.engine, u) ∧ (u.withAgenda [.engine]).popTurn = (.engine, u) ∧
      u.flight = some (flightOf .smul State.reset) ∧ (flightOf .smul State.reset).left = 0 ∧
      decodeBytes (lanesOf (flightOf .smul State.reset).lat.cmd) = .ok (.smul, []) :=
  ⟨rfl, rfl, rfl, rfl, by decide⟩

/-- The widest word and one of fewer bits. -/
theorem witness_PlacedCommandRunsNext :
    decodeTableWord 64 7 = some .smul ∧ decodeTableWord 4 5 = some .dbl ∧ decodeTableWord 0 0 = some .nop := by decide

/-- The least and the greatest illegal word, and a legal OPCODE under the lowest reserved bit. -/
theorem witness_IllegalWordCompletes :
    (∀ w : Word, w = 0x8 ∨ w = 0xF ∨ w = 0x10 ∨ w = 0x17 ∨ w = 0xFFFFFFFFFFFFFFFF →
      w.toNat / 16 ≠ 0 ∨ 8 ≤ w.toNat % 16) ∧
      State.reset.flight = none ∧
      ∀ w, ∃ f : Flight, (State.reset.issueWith 0 w).flight = some f ∧ f.lat.cmd = w ∧ f.left = 0 ∧
        (State.reset.issueWith 0 w).InFlight f :=
  ⟨by rintro w (rfl | rfl | rfl | rfl | rfl) <;> decide, rfl, fun w => ⟨_, rfl, rfl, rfl, ⟨rfl, rfl, rfl, rfl, rfl, rfl, nofun⟩⟩⟩

theorem witness_InternalStepsAreInvisible :
    ∃ f : Flight, (smulBegun 13 1).flight = some f ∧ f.left ≠ 0 := ⟨_, rfl, by decide⟩

/-- An engine with nothing in flight: of `IdleEngineChangesNothing`, `IssueLatchesAndClears`,
`IssueDrawsTheLatency`. -/
theorem witness_idle : State.reset.flight = none := rfl

/-- Both ways OVR can fall, and a busy engine. -/
theorem witness_OverrunRule :
    let s := { smulBegun 13 1 with status := { (smulBegun 13 1).status with ovr := true } }
    (∃ f : Flight, s.flight = some f) ∧ s.status.ovr = true ∧
      (∃ t, takeTurn .reset s = .next t ∧ t.status.ovr = false) ∧
      (∃ t, takeTurn (.host (.write 0x08 (lanesOf 0x10))) s = .next t ∧ t.status.ovr = false) :=
  ⟨⟨_, rfl⟩, rfl, ⟨_, rfl, rfl⟩, ⟨_, rfl, by decide⟩⟩

/-- A busy and an idle engine: of `NopResult`, `OnCurveResult`, `EveryCommandCompletes`, `OutcomeDependsOnLatchedAlone`. -/
theorem witness_busy :
    (∃ f : Flight, (issued .nop State.reset).flight = some f ∧ (issued .nop State.reset).busy = true) ∧
      State.reset.busy = false := ⟨⟨_, rfl, by decide⟩, by decide⟩

/-- The legal side of CONFIG at its bounds. -/
theorem witness_ConfigResult_legal :
    ∀ n ∈ [(3, 0, 1), (3, 2, 2), (2 ^ 63 - 1, 0, 1), (2 ^ 63 - 1, 2 ^ 63 - 2, 2 ^ 63 - 2)],
      ∃ f : Flight, (issued .config (staged n.1 n.2.1 n.2.2)).flight = some f ∧ n.1 = f.lat.cfg.p.toNat ∧
        n.2.1 = f.lat.cfg.a.toNat ∧ n.2.2 = f.lat.cfg.b.toNat ∧
        (3 ≤ n.1 ∧ n.1 ≤ 2 ^ 63 - 1 ∧ n.1 % 2 = 1 ∧ n.2.1 < n.1 ∧ 1 ≤ n.2.2 ∧ n.2.2 < n.1) := by
  intro n hn
  refine ⟨flightOf .config (staged n.1 n.2.1 n.2.2), rfl, ?_⟩
  revert n
  decide

/-- The refused side of CONFIG, one just past each bound. -/
theorem witness_ConfigResult_refused :
    ∀ n ∈ [(1, 0, 0), (4, 0, 1), (2 ^ 63, 0, 1), (2 ^ 63 + 1, 0, 1), (17, 17, 2), (17, 2, 0), (17, 2, 17)],
      ∃ f : Flight, (issued .config (staged n.1 n.2.1 n.2.2)).flight = some f ∧ n.1 = f.lat.cfg.p.toNat ∧
        n.2.1 = f.lat.cfg.a.toNat ∧ n.2.2 = f.lat.cfg.b.toNat ∧
        ¬(3 ≤ n.1 ∧ n.1 ≤ 2 ^ 63 - 1 ∧ n.1 % 2 = 1 ∧ n.2.1 < n.1 ∧ 1 ≤ n.2.2 ∧ n.2.2 < n.1) := by
  intro n hn
  refine ⟨flightOf .config (staged n.1 n.2.1 n.2.2), rfl, ?_⟩
  revert n
  decide

/-- The extreme operands of RED, under the least and the greatest modulus. -/
theorem witness_RedResult :
    ∀ n ∈ [((1 : Nat), (-9223372036854775808 : Int)), (101, 9223372036854775807), (2 ^ 64 - 1, -1)],
      ∃ f : Flight, (issued .red (under (curve n.1 0 1) (loaded n.2 0 0 0 0))).flight = some f ∧
        n.2 = f.lat.x1.toInt ∧ (n.1 : Int) = f.lat.cur.p.toNat ∧ (0 : Int) < n.1 := by
  intro n hn
  refine ⟨flightOf .red (under (curve n.1 0 1) (loaded n.2 0 0 0 0)), rfl, ?_⟩
  revert n
  decide

theorem witness_ReduceIsTheSourceFormula : (0 : Int) < (curve 1 0 0).params.p ∧ (0 : Int) < (curve 101 35 3).params.p := by
  decide

/-- Both clauses of INV: multiples of the modulus, and values next to them. -/
theorem witness_InvResult :
    (∀ x ∈ [(0 : Int), 101, -101], ∃ f : Flight, (issued .inv (loaded x 0 0 0 0)).flight = some f ∧
      x = f.lat.x1.toInt ∧ 101 = f.lat.cur.p.toNat ∧ x % 101 = 0) ∧
    (∀ x ∈ [(1 : Int), 100, -1, 102], ∃ f : Flight, (issued .inv (loaded x 0 0 0 0)).flight = some f ∧
      x = f.lat.x1.toInt ∧ 101 = f.lat.cur.p.toNat ∧ x % 101 ≠ 0) := by
  refine ⟨fun x hx => ⟨flightOf .inv (loaded x 0 0 0 0), rfl, ?_⟩,
    fun x hx => ⟨flightOf .inv (loaded x 0 0 0 0), rfl, ?_⟩⟩ <;> (revert x; decide)

/-- The reset modulus and the least prime. -/
theorem witness_InvIsTheInverse :
    (Nat.Prime 101 ∧ ∃ f : Flight, (issued .inv (loaded (-1) 0 0 0 0)).flight = some f ∧ -1 = f.lat.x1.toInt ∧
      101 = f.lat.cur.p.toNat ∧ (-1 : Int) % 101 ≠ 0) ∧
    (Nat.Prime 2 ∧ ∃ f : Flight, (issued .inv (under (curve 2 0 1) (loaded 1 0 0 0 0))).flight = some f ∧
      1 = f.lat.x1.toInt ∧ 2 = f.lat.cur.p.toNat ∧ (1 : Int) % 2 ≠ 0) :=
  ⟨⟨by norm_num, flightOf .inv (loaded (-1) 0 0 0 0), rfl, by decide, by decide, by decide⟩,
    ⟨by norm_num, flightOf .inv (under (curve 2 0 1) (loaded 1 0 0 0 0)), rfl, by decide, by decide, by decide⟩⟩

/-- DBL's range clause, one past each bound. -/
theorem witness_DblResult_range :
    ∀ P ∈ [((101 : Int), (0 : Int)), (-1, 5), (2, 101), (2, -1)],
      ∃ f : Flight, (issued .dbl (loaded P.1 P.2 0 0 0)).flight = some f ∧ P.1 = f.lat.x1.toInt ∧ P.2 = f.lat.y1.toInt ∧
        101 = f.lat.cur.p.toNat ∧ ¬(0 ≤ P.1 ∧ P.1 < 101 ∧ 0 ≤ P.2 ∧ P.2 < 101) := by
  intro P hP
  refine ⟨flightOf .dbl (loaded P.1 P.2 0 0 0), rfl, ?_⟩
  revert P
  decide

/-- DBL's canonical clauses: `y = 0`, the least and the greatest `y` otherwise. -/
theorem witness_DblResult_canonical :
    ∀ P ∈ [((0 : Int), (0 : Int)), (100, 0), (0, 1), (100, 100)],
      ∃ f : Flight, (issued .dbl (loaded P.1 P.2 0 0 0)).flight = some f ∧ P.1 = f.lat.x1.toInt ∧ P.2 = f.lat.y1.toInt ∧
        101 = f.lat.cur.p.toNat ∧ 35 = f.lat.cur.a.toNat ∧ (0 ≤ P.1 ∧ P.1 < 101 ∧ 0 ≤ P.2 ∧ P.2 < 101) ∧
        (P.2 = 0 ∨ (2 * P.2) % 101 ≠ 0) := by
  intro P hP
  refine ⟨flightOf .dbl (loaded P.1 P.2 0 0 0), rfl, ?_⟩
  revert P
  decide

/-- DBL's clause for `2y` that reduces to 0: a modulus no step makes active. -/
theorem witness_DblResult_divZero :
    ∃ f : Flight, (issued .dbl (under (curve 2 0 1) (loaded 1 1 0 0 0))).flight = some f ∧ 1 = f.lat.x1.toInt ∧
      1 = f.lat.y1.toInt ∧ 2 = f.lat.cur.p.toNat ∧ (1 : Int) ≠ 0 ∧ (2 * 1 : Int) % 2 = 0 :=
  ⟨flightOf .dbl (under (curve 2 0 1) (loaded 1 1 0 0 0)), rfl, by decide, by decide, by decide, by decide, by decide⟩

/-- ADD's range clause, on each coordinate. -/
theorem witness_AddResult_range :
    ∀ P ∈ [((101 : Int), (0 : Int), (6 : Int), (5 : Int)), (6, -1, 6, 5), (6, 5, -1, 0), (6, 5, 6, 101)],
      ∃ f : Flight, (issued .add (loaded P.1 P.2.1 P.2.2.1 P.2.2.2 0)).flight = some f ∧ P.1 = f.lat.x1.toInt ∧
        P.2.1 = f.lat.y1.toInt ∧ P.2.2.1 = f.lat.x2.toInt ∧ P.2.2.2 = f.lat.y2.toInt ∧ 101 = f.lat.cur.p.toNat ∧
        ¬((0 ≤ P.1 ∧ P.1 < 101 ∧ 0 ≤ P.2.1 ∧ P.2.1 < 101) ∧
          0 ≤ P.2.2.1 ∧ P.2.2.1 < 101 ∧ 0 ≤ P.2.2.2 ∧ P.2.2.2 < 101) := by
  intro P hP
  refine ⟨flightOf .add (loaded P.1 P.2.1 P.2.2.1 P.2.2.2 0), rfl, ?_⟩
  revert P
  decide

/-- ADD's canonical clauses: the sentinel on the left, on the right and on both sides, equal points, equal `x`, and
different `x` at both ends of the range. -/
theorem witness_AddResult_canonical :
    ∀ P ∈ [((0 : Int), (0 : Int), (100 : Int), (100 : Int)), (100, 100, 0, 0), (0, 0, 0, 0), (100, 100, 100, 100),
        (100, 1, 100, 100), (0, 1, 100, 0)],
      ∃ f : Flight, (issued .add (loaded P.1 P.2.1 P.2.2.1 P.2.2.2 0)).flight = some f ∧ P.1 = f.lat.x1.toInt ∧
        P.2.1 = f.lat.y1.toInt ∧ P.2.2.1 = f.lat.x2.toInt ∧ P.2.2.2 = f.lat.y2.toInt ∧ 101 = f.lat.cur.p.toNat ∧
        ((0 ≤ P.1 ∧ P.1 < 101 ∧ 0 ≤ P.2.1 ∧ P.2.1 < 101) ∧
          0 ≤ P.2.2.1 ∧ P.2.2.1 < 101 ∧ 0 ≤ P.2.2.2 ∧ P.2.2.2 < 101) := by
  intro P hP
  refine ⟨flightOf .add (loaded P.1 P.2.1 P.2.2.1 P.2.2.2 0), rfl, ?_⟩
  revert P
  decide

/-- A loop that has begun is consistent. -/
theorem smulBegun_consistent :
    Flight.LoopConsistent
      { lat := (loaded 6 5 0 0 13).latch (encode .smul), left := 1, loop := some ⟨⟨6, 5⟩, 3⟩ } ⟨⟨6, 5⟩, 3⟩ where
  isSmul := by decide
  canonical := by decide
  scalar := by decide
  idx := by decide
  rest := by decide

/-- SMUL before its loop (for the range clause, `k` 0, 1 and the greatest `k`), and within it. -/
theorem witness_SmulResult :
    (∀ n ∈ [((101 : Int), (0 : Int)), (-1, 1), (100, 2 ^ 64 - 1)],
      ∃ f : Flight, (issued .smul (loaded n.1 0 0 0 n.2)).flight = some f ∧ f.loop = none ∧ n.1 = f.lat.x1.toInt ∧
        0 = f.lat.y1.toInt ∧ 101 = f.lat.cur.p.toNat ∧ n.2 = f.lat.k.toNat ∧
        (¬(0 ≤ n.1 ∧ n.1 < 101) ∨ ∃ R, ptSmul f.lat.cur.params ⟨n.1, 0⟩ f.lat.k.toNat = .ok R)) ∧
    (∃ f : Flight, (smulBegun 13 1).flight = some f ∧ (∀ l, f.loop = some l → f.LoopConsistent l) ∧
      6 = f.lat.x1.toInt ∧ 5 = f.lat.y1.toInt ∧ ptSmul f.lat.cur.params ⟨6, 5⟩ f.lat.k.toNat = .ok ⟨29, 37⟩) := by
  refine ⟨fun n hn => ⟨flightOf .smul (loaded n.1 0 0 0 n.2), rfl, rfl, ?_⟩, _, rfl, ?_, by decide, by decide, by decide⟩
  · simp only [List.mem_cons, List.not_mem_nil, or_false] at hn
    rcases hn with rfl | rfl | rfl
    · exact ⟨by decide, by decide, by decide, by decide, .inl (by decide)⟩
    · exact ⟨by decide, by decide, by decide, by decide, .inl (by decide)⟩
    · exact ⟨by decide, by decide, by decide, by decide, .inr ⟨⟨100, 0⟩, by decide⟩⟩
  · intro l hl
    cases hl
    exact smulBegun_consistent

/-- SMUL's small scalars, and its error clause under a modulus no step makes active. -/
theorem witness_SmulResult_clauses :
    (flightOf .smul (loaded 0 0 0 0 0)).lat.k.toNat = 0 ∧ (flightOf .smul (loaded 100 100 0 0 1)).lat.k.toNat = 1 ∧
      (flightOf .smul (under (curve 2 0 1) (loaded 1 1 0 0 2))).loop = none ∧
      ptSmul (flightOf .smul (under (curve 2 0 1) (loaded 1 1 0 0 2))).lat.cur.params ⟨1, 1⟩ 2 = .error .divZero := by
  decide

/-- Canonical points for each clause: `y = 0` at both ends of `x`, the extreme `y` otherwise, and a modulus for which `2y`
reduces to 0. -/
theorem witness_PointDoubleFormula :
    (∀ P ∈ [((0 : Int), (0 : Int)), (100, 0), (0, 1), (100, 100)],
      (0 ≤ P.1 ∧ P.1 < (curve 101 35 3).params.p ∧ 0 ≤ P.2 ∧ P.2 < (curve 101 35 3).params.p) ∧
        (P.2 = 0 ∨ (2 * P.2) % (curve 101 35 3).params.p ≠ 0)) ∧
      (0 ≤ (1 : Int) ∧ (1 : Int) < (curve 2 0 1).params.p ∧ (1 : Int) ≠ 0 ∧
        (2 * 1 : Int) % (curve 2 0 1).params.p = 0) := by decide

/-- Canonical points for each clause: the sentinel on either side and on both, equal points, equal `x`, and different `x`
at both ends of the range. -/
theorem witness_PointAddFormula :
    let p := (curve 101 35 3).params.p
    ∀ P ∈ [((0 : Int), (0 : Int), (100 : Int), (100 : Int)), (100, 100, 0, 0), (0, 0, 0, 0), (100, 100, 100, 100),
        (100, 1, 100, 100), (0, 1, 100, 0)],
      (0 ≤ P.1 ∧ P.1 < p ∧ 0 ≤ P.2.1 ∧ P.2.1 < p) ∧ 0 ≤ P.2.2.1 ∧ P.2.2.1 < p ∧ 0 ≤ P.2.2.2 ∧ P.2.2.2 < p := by
  decide

theorem witness_SmulIsDoubleAndAdd :
    let c := (curve 101 35 3).params
    let d := (curve 2 0 1).params
    ptSmul c ⟨6, 5⟩ 1 = .ok ⟨6, 5⟩ ∧ ptDouble c ⟨6, 5⟩ = .ok ⟨42, 66⟩ ∧ ptSmul c ⟨2, 9⟩ 2 = .ok ⟨5, 0⟩ ∧
      ptDouble c ⟨5, 0⟩ = .ok ⟨0, 0⟩ ∧ ptSmul d ⟨1, 1⟩ 2 = .error .divZero ∧ ptSmul d ⟨1, 1⟩ 1 = .ok ⟨1, 1⟩ ∧
      ptDouble d ⟨1, 1⟩ = .error .divZero := by decide

theorem witness_SmulWithLeadingZeros : 0 < 2 ^ 0 ∧ 5 < 2 ^ 3 ∧ 5 < 2 ^ 64 ∧ 2 ^ 64 - 1 < 2 ^ 64 := by decide

theorem witness_SmulOperationCounts :
    (2 ≤ 2 ∧ 2 ^ (2 - 1) ≤ 2 ∧ 2 < 2 ^ 2) ∧
      (2 ≤ 2 ^ 64 - 1 ∧ 2 ^ (64 - 1) ≤ 2 ^ 64 - 1 ∧ 2 ^ 64 - 1 < 2 ^ 64) := by decide

/-- Of `PointResultsAreCanonical` and `PointCommandsNeverDivideByZero`: each point command, INF and not, and an SMUL
within its loop. -/
theorem witness_point_commands :
    (∃ t f, (issued .dbl (loaded 6 5 0 0 0)).flight = some f ∧ f.loop = none ∧ cfgValid f.lat.cur.params = true ∧
      exec .dbl (issued .dbl (loaded 6 5 0 0 0)) = .next t ∧ t.status.err = none ∧ t.status.inf = false) ∧
    (∃ t f, (issued .add (loaded 6 5 6 96 0)).flight = some f ∧ f.loop = none ∧ cfgValid f.lat.cur.params = true ∧
      exec .add (issued .add (loaded 6 5 6 96 0)) = .next t ∧ t.status.err = none ∧ t.status.inf = true) ∧
    (∃ t f, (smulBegun 13 1).flight = some f ∧ (∀ l, f.loop = some l → f.LoopConsistent l) ∧
      cfgValid f.lat.cur.params = true ∧ exec .smul (smulBegun 13 1) = .next t ∧ t.status.err = none) := by
  refine ⟨⟨_, flightOf .dbl (loaded 6 5 0 0 0), rfl, rfl, by decide, rfl, by decide, by decide⟩,
    ⟨_, flightOf .add (loaded 6 5 6 96 0), rfl, rfl, by decide, rfl, by decide, by decide⟩,
    ⟨_, _, rfl, ?_, by decide, rfl, by decide⟩⟩
  intro l hl
  cases hl
  exact smulBegun_consistent

/-- The smallest, the default and the largest legal modulus. -/
theorem witness_SentinelIsOffEveryLegalCurve :
    cfgValid (curve 3 0 1).params = true ∧ cfgValid (curve 101 35 3).params = true ∧
      cfgValid (curve (2 ^ 63 - 1) 0 1).params = true := by decide

theorem witness_AddCommutes :
    let c := (curve 101 35 3).params
    cfgValid c = true ∧ c.p = (101 : Nat) ∧ Nat.Prime 101 ∧ (⟨0, 0⟩ : Point).Canonical c ∧
      (⟨100, 100⟩ : Point).Canonical c :=
  ⟨by decide, by decide, by norm_num, by unfold Point.Canonical; decide, by unfold Point.Canonical; decide⟩

/-- Of `SmulIsAdditive` and `DiffieHellmanAgreement`: the default curve is not singular, and the sentinel is among the
points. -/
theorem witness_group :
    let c := (curve 101 35 3).params
    cfgValid c = true ∧ c.p = (101 : Nat) ∧ Nat.Prime 101 ∧ (4 * c.a ^ 3 + 27 * c.b ^ 2) % c.p ≠ 0 ∧
      ((⟨2, 9⟩ : Point).Canonical c ∧ ptOnCurve c ⟨2, 9⟩ = true) ∧
      ((⟨0, 0⟩ : Point).Canonical c ∧ ptOnCurve c ⟨0, 0⟩ = true) ∧ 0 + (2 ^ 64 - 1) ≤ 2 ^ 64 - 1 :=
  ⟨by decide, by decide, by norm_num, by decide, ⟨by unfold Point.Canonical; decide, by decide⟩,
    ⟨by unfold Point.Canonical; decide, by decide⟩, by decide⟩

/-- What issue leaves in flight. -/
theorem issued_inFlight (i : Instr) (s : State) : (issued i s).InFlight (flightOf i s) where
  curve := rfl
  done := rfl
  bool := rfl
  inf := rfl
  err := rfl
  lastop := rfl
  loop := fun _ h => by cases h

/-- A failing CONFIG, INV and DBL. -/
theorem witness_FailureIsAllOrNothing :
    (∃ t f, (issued .config (staged 2 0 1)).flight = some f ∧ (issued .config (staged 2 0 1)).InFlight f ∧
      exec .config (issued .config (staged 2 0 1)) = .next t ∧ t.status.err ≠ none) ∧
    (∃ t f, (issued .inv State.reset).flight = some f ∧ (issued .inv State.reset).InFlight f ∧
      exec .inv (issued .inv State.reset) = .next t ∧ t.status.err ≠ none) ∧
    (∃ t f, (issued .dbl (loaded 101 0 0 0 0)).flight = some f ∧ (issued .dbl (loaded 101 0 0 0 0)).InFlight f ∧
      exec .dbl (issued .dbl (loaded 101 0 0 0 0)) = .next t ∧ t.status.err ≠ none) :=
  ⟨⟨_, _, rfl, issued_inFlight _ _, rfl, by decide⟩, ⟨_, _, rfl, issued_inFlight _ _, rfl, by decide⟩,
    ⟨_, _, rfl, issued_inFlight _ _, rfl, by decide⟩⟩

/-- Every command reaches a next state, successful where its clause asks for it. -/
theorem witness_CommandFrame (i : Instr) : ∃ t, exec i (issued i (loaded 6 5 42 66 13)) = .next t ∧ t.status.err = none := by
  cases i <;> exact ⟨_, rfl, by decide⟩

theorem witness_OutcomeDependsOnLatchedAlone :
    ∃ f : Flight, (issued .dbl (loaded 6 5 0 0 0)).flight = some f ∧
      ({ issued .dbl (loaded 6 5 0 0 0) with x1 := 7, rx := 9, ie := true } : State).flight = some f := ⟨_, rfl, rfl⟩

/-- The curve changed by CONFIG, and by reset. -/
theorem witness_OnlyConfigAndResetChangeTheCurve :
    (∃ t, takeTurn .engine (issued .config (staged 3 0 1)) = .next t ∧ t.cur ≠ (issued .config (staged 3 0 1)).cur) ∧
    (∃ t, takeTurn .reset (under (curve 17 2 2) State.reset) = .next t ∧
      t.cur ≠ (under (curve 17 2 2) State.reset).cur) := ⟨⟨_, rfl, by decide⟩, ⟨_, rfl, by decide⟩⟩

/-- RX changed alone, RX and RY changed, and both changed by reset. -/
theorem witness_OnlyCompletionAndResetChangeResults :
    (∃ t, takeTurn .engine (issued .red (loaded 6 0 0 0 0)) = .next t ∧ t.rx ≠ (loaded 6 0 0 0 0).rx) ∧
    (∃ t, takeTurn .engine (issued .smul (loaded 6 5 0 0 13)) = .next t ∧ t.rx ≠ (loaded 6 5 0 0 13).rx ∧
      t.ry ≠ (loaded 6 5 0 0 13).ry) ∧
    (∃ t, takeTurn .reset { State.reset with rx := 1, ry := 1 } = .next t ∧ t.rx ≠ 1 ∧ t.ry ≠ 1) :=
  ⟨⟨_, rfl, by decide⟩, ⟨_, rfl, by decide, by decide⟩, ⟨_, rfl, by decide, by decide⟩⟩

/-- Each of the registers changed by the host's write, and by reset. -/
theorem witness_OnlyTheHostAndResetChangeOperands (r : Reg)
    (h : r = .x1 ∨ r = .y1 ∨ r = .x2 ∨ r = .y2 ∨ r = .k ∨ r = .cfgP ∨ r = .cfgA ∨ r = .cfgB) :
    ∃ s t u : State, takeTurn (.host (.write r.offset (lanesOf 7))) s = .next t ∧ readReg t r ≠ readReg s r ∧
      takeTurn .reset t = .next u ∧ readReg u r ≠ readReg t r := by
  rcases h with rfl | rfl | rfl | rfl | rfl | rfl | rfl | rfl <;>
    exact ⟨State.reset, _, _, rfl, by decide, rfl, by decide⟩

/-- The least and the greatest offset of a register. -/
theorem witness_BusReadReturnsTheRegister :
    ((0x00 : Offset).toNat % 8 = 0 ∧ (0x00 : Offset).toNat ≤ 0x78) ∧
      ((0x78 : Offset).toNat % 8 = 0 ∧ (0x78 : Offset).toNat ≤ 0x78) := by decide

/-- The environment after a write. -/
theorem witness_BusWriteStoresTheRegister :
    ∃ (s : State) (e : Env), e = { s.env with reply := some .written } := ⟨State.reset, _, rfl⟩

/-- Each way to an error response at a boundary, and the accepted accesses next to them. -/
theorem witness_ErrorResponses :
    (∀ a ∈ [Access.read 0x48 4, .read 0x48 16, .write 0x48 [], .read 0x01 8, .read 0x7F 8, .read 0x80 8, .read 0xF8 8],
      a.width ≠ 8 ∨ a.off.toNat % 8 ≠ 0 ∨ 0x80 ≤ a.off.toNat) ∧
    (∀ a ∈ [Access.read 0x00 8, .read 0x78 8, .write 0x78 (List.replicate 8 0)],
      ¬(a.width ≠ 8 ∨ a.off.toNat % 8 ≠ 0 ∨ 0x80 ≤ a.off.toNat)) := by decide

theorem witness_ByteLanesAreLittleEndian : 0 < 8 ∧ 7 < 8 := by decide

/-- For each register the write and the read that follow each other. -/
theorem witness_ReadAfterWrite (r : Reg) :
    ∃ s : State, s.env.agenda = .host (.write r.offset (lanesOf 7)) :: .host (.read r.offset 8) :: [] :=
  ⟨State.reset.withAgenda [.host (.write r.offset (lanesOf 7)), .host (.read r.offset 8)], rfl⟩

theorem witness_InterruptOutput :
    (∃ f : Flight, (issued .dbl State.reset).flight = some f ∧ f.left = 0) ∧
      (∃ f : Flight, (State.reset.issueWith 0 8).flight = some f ∧ f.left = 0) ∧
      (State.reset.flight = none ∧ (0x2 : Word).getLsbD 1 = true) ∧ (0xFFFFFFFFFFFFFFFE : Word).getLsbD 0 = false ∧
      (issued .dbl State.reset).flight.isSome = true :=
  ⟨⟨_, rfl, rfl⟩, ⟨_, rfl, rfl⟩, ⟨rfl, by decide⟩, by decide, rfl⟩

/-- An SMUL within its loop meets the invariant and takes a step. -/
theorem witness_InvKeptByStep : (smulBegun 13 1).Inv ∧ ∃ t, step (smulBegun 13 1) = .next t := by
  refine ⟨?_, _, rfl⟩
  refine
    { curve := by decide, rx := by decide, ry := by decide, bool := nofun, inf := nofun, infIff := nofun,
      err := True.intro, flight := ?_ }
  intro f hf
  cases hf
  refine { curve := rfl, done := rfl, bool := rfl, inf := rfl, err := rfl, lastop := rfl, loop := ?_ }
  intro l hl
  cases hl
  exact smulBegun_consistent

/-- No internal step left, and some. -/
theorem witness_CompletesInItsLatency :
    (∃ f : Flight, (issued .dbl State.reset).env.agenda = [] ∧ (issued .dbl State.reset).flight = some f ∧ 0 ≤ f.left) ∧
      (∃ f : Flight, (smulBegun 13 9).env.agenda = [] ∧ (smulBegun 13 9).flight = some f ∧ 9 ≤ f.left) :=
  ⟨⟨_, rfl, rfl, by decide⟩, ⟨_, rfl, rfl, by decide⟩⟩

/-- Program P5, lines 5 to 8, with engine turns between the accesses: operand writes, a second issue and a read during an
SMUL, with internal steps left after them; and an agenda that uses up every internal step. -/
theorem witness_OperandWritesAfterIssueAreSafe :
    ∀ c ∈ [([wr .x1 42, .engine, wr .y1 66, cmd .nop, .engine, rd .status], 1), ([.engine, .engine, rd .ry, .engine], 0),
        (([] : List Turn), 3)],
      ((smulBegun 100 3).withAgenda c.1).flight = (smulBegun 100 3).flight ∧
        ((smulBegun 100 3).withAgenda c.1).env.agenda = c.1 ∧
        (∀ turn ∈ c.1, turn = .engine ∨
          ∃ a : Access, turn = .host a ∧ a.width = 8 ∧ a.off.toNat % 8 = 0 ∧ a.off.toNat < 0x80) ∧
        ∃ f : Flight, (smulBegun 100 3).flight = some f ∧ c.1.count .engine + c.2 = f.left := by
  have host : ∀ a : Access, a.width = 8 ∧ a.off.toNat % 8 = 0 ∧ a.off.toNat < 0x80 →
      ∃ b : Access, Turn.host a = .host b ∧ b.width = 8 ∧ b.off.toNat % 8 = 0 ∧ b.off.toNat < 0x80 :=
    fun a h => ⟨a, rfl, h⟩
  intro c hc
  refine ⟨rfl, rfl, ?_, ?_⟩
  · simp only [List.mem_cons, List.not_mem_nil, or_false] at hc
    rcases hc with rfl | rfl | rfl <;> intro turn ht <;> simp only [List.mem_cons, List.not_mem_nil, or_false] at ht
    · rcases ht with rfl | rfl | rfl | rfl | rfl | rfl
      · exact .inr (host _ (by decide))
      · exact .inl rfl
      · exact .inr (host _ (by decide))
      · exact .inr (host _ (by decide))
      · exact .inl rfl
      · exact .inr (host _ (by decide))
    · rcases ht with rfl | rfl | rfl | rfl
      · exact .inl rfl
      · exact .inl rfl
      · exact .inr (host _ (by decide))
      · exact .inl rfl
  · refine ⟨_, rfl, ?_⟩
    revert c
    decide

end Sys2Proof.Tests
end

section
/-! PROOFS of the statements of 00_scope.md: internal steps, residues and completion (R4, R8, R81, R82). -/

namespace Sys2Proof.Machine

/-! ### Internal steps (R8, R81) -/

/-- The engine's step with internal steps left. -/
theorem engineTurn_of_left {s : State} {f : Flight} {left : Nat} (hf : s.flight = some f) (hl : f.left = left + 1) :
    engineTurn s = .next (internalStep s f left) := by
  simp only [engineTurn, hf, hl]

/-- An internal step leaves STATUS as the host reads it: BUSY stays 1, and the stored fields are untouched. -/
theorem statusWord_internalStep {s : State} {f : Flight} (hf : s.flight = some f) (g : Flight) (left : Nat) :
    (internalStep s g left).statusWord = s.statusWord :=
  statusWord_congr (internalStep_status s g left) (by simp [hf])

/-- An internal step of a busy engine is invisible to the host. -/
theorem sameToHost_internalStep {s : State} {f : Flight} (hf : s.flight = some f) (g : Flight) (left : Nat) :
    SameToHost s (internalStep s g left) := by
  constructor
  · intro r
    cases r with
    | status => exact statusWord_internalStep hf g left
    | _ => rfl
  · rfl

/-- Settles O9: the engine's step is `internalStep`, which writes the flight alone. -/
theorem internalStepsAreInvisible : Obligations.InternalStepsAreInvisible := by
  intro s f hf hne
  obtain ⟨left, hl⟩ := Nat.exists_eq_add_one_of_ne_zero hne
  exact ⟨internalStep s f left, f.advance left, engineTurn_of_left hf hl, sameToHost_internalStep hf f left, rfl, rfl,
    hl.symm⟩

/-! ### Residues (R4) -/

/-- The truncated remainder is in the residue class of its dividend. -/
theorem mod_tmod (x m : Int) : mod (x.tmod m) m = mod x m :=
  calc
    x.tmod m % m = (x.tmod m + m * x.tdiv m) % m := (Int.add_mul_emod_self_left _ _ _).symm
    _ = x % m := by rw [Int.tmod_add_mul_tdiv]

/-- The source's `((x mod m) + m) mod m`: the inner remainder is above `-m`, so the outer one divides a non-negative
number, on which truncation and residue agree (00_scope.md R4). -/
theorem mod_eq_truncated {m : Int} (hm : 0 < m) (x : Int) : mod x m = (x.tmod m + m).tmod m := by
  have hinner : 0 ≤ x.tmod m + m := by
    have := Int.lt_tmod_of_pos x hm
    omega
  calc
    mod x m = mod (x.tmod m) m := (mod_tmod x m).symm
    _ = (x.tmod m + m) % m := (Int.add_emod_right _ _).symm
    _ = (x.tmod m + m).tmod m := (Int.tmod_eq_emod_of_nonneg hinner).symm

/-- Settles O18, by `mod_eq_truncated`. -/
theorem reduceIsTheSourceFormula : Obligations.ReduceIsTheSourceFormula :=
  fun _ x hp => ⟨mod_eq_truncated hp x, reduce_nonneg hp x, reduce_lt hp x, Int.dvd_self_sub_emod⟩

/-! ### Completion (R8, R82) -/

/-- Without a command in flight there is no completion step (log entry 6). -/
theorem exec_of_idle (i : Instr) {s : State} (hf : s.flight = none) : exec i s = .fault .noCommandInFlight := by
  rw [exec_eq_completing, completing_of_idle _ hf]

/-- A completion leaves the engine idle, whatever its outcome. -/
theorem busy_complete (s : State) (o : Except Err Writes) : (s.complete o).busy = false := by
  simp [complete_frame s o]

/-- A completion sets DONE, whatever its outcome. -/
theorem done_complete (s : State) (o : Except Err Writes) : (s.complete o).status.done = true := by
  simp [complete_frame s o]

/-- After a completion IRQ follows IE (60_exceptions.md R162). -/
theorem irq_complete (s : State) (o : Except Err Writes) : (s.complete o).irq = s.ie := by
  simp [State.irq, complete_frame s o]

/-- Settles O34: `exec` completes the command in flight with whatever outcome it has. -/
theorem everyCommandCompletes : Obligations.EveryCommandCompletes := by
  intro i s
  constructor
  · intro hbusy
    obtain ⟨f, hf⟩ := Option.isSome_iff_exists.1 hbusy
    exact ⟨s.complete (outcomeOf i f), exec_of_flight i hf, busy_complete s _, done_complete s _, irq_complete s _⟩
  · intro hidle
    exact exec_of_idle i (by simpa using hidle)

end Sys2Proof.Machine
end

section
/-! PROOFS of the statements of 10_state.md, the shared rules: what one turn of any agent does to the state, and what a
command's outcome may write. -/

namespace Sys2Proof.Machine

/-! ### One turn of any agent -/

/-- What one turn does, a constructor for each kind of turn that answers a next state (00_scope.md R8). -/
inductive TurnEffect (s : State) : Turn → State → Prop where
  | reset : TurnEffect s .reset (resetTurn s)
  | read (r : Reg) : TurnEffect s (.host (.read r.offset 8)) (s.withReply (.data (lanesOf (readReg s r))))
  | write (r : Reg) (lanes : List Byte) (hlen : lanes.length = 8) :
      TurnEffect s (.host (.write r.offset lanes)) ((writeReg s r (ofLanes lanes)).withReply .written)
  | idle (hidle : s.flight = none) : TurnEffect s .engine s
  | internal (f : Flight) (left : Nat) (hf : s.flight = some f) (hleft : f.left = left + 1) :
      TurnEffect s .engine (internalStep s f left)
  | complete (f : Flight) (i : Instr) (hf : s.flight = some f) (hleft : f.left = 0)
      (hi : decodeWord f.lat.cmd = .ok i) : TurnEffect s .engine (s.complete (outcomeOf i f))
  | illegal (f : Flight) (reason : Reject) (hf : s.flight = some f) (hleft : f.left = 0)
      (hreject : decodeWord f.lat.cmd = .error reason) : TurnEffect s .engine (s.complete (.error .illegal))

/-- An access that reaches a register is 8 bytes wide and at the register's offset (20_memory.md R41-R43). -/
theorem access_of_target {a : Access} {r : Reg} (h : a.target = some r) : a.width = 8 ∧ a.off = r.offset := by
  unfold Access.target at h
  split at h
  · next hw => exact ⟨hw, (ofOffset_eq_some_iff _ _).1 h⟩
  · cases h

/-- A host access that answers a next state is a read or a write of a register. -/
theorem turnEffect_of_hostTurn {a : Access} {s t : State} (h : hostTurn a s = .next t) :
    TurnEffect s (.host a) t := by
  rcases hostTurn_cases a s with ⟨r, hr, ⟨off, n, rfl⟩, ht⟩ | ⟨r, off, lanes, hr, rfl, ht⟩ | ⟨-, ht⟩ <;>
    rw [ht] at h <;> cases h
  · obtain ⟨hwidth, hoff⟩ := access_of_target hr
    obtain rfl : n = 8 := hwidth
    obtain rfl : off = r.offset := hoff
    exact .read r
  · obtain ⟨hlen, hoff⟩ := access_of_target hr
    obtain rfl : off = r.offset := hoff
    exact .write r lanes hlen

/-- An engine step is idle, internal or the completion of the command in flight. -/
theorem turnEffect_of_engineTurn {s t : State} (h : engineTurn s = .next t) : TurnEffect s .engine t := by
  rcases engineTurn_cases s with
    ⟨hidle, ht⟩ | ⟨f, left, hf, hl, ht⟩ | ⟨f, i, hf, hl, hi, ht⟩ | ⟨f, reason, hf, hl, hr, ht⟩ <;>
    rw [ht] at h <;> cases h
  · exact .idle hidle
  · exact .internal f left hf hl
  · exact .complete f i hf hl hi
  · exact .illegal f reason hf hl hr

/-- A turn that answers a next state has one of the effects. -/
theorem turnEffect_of_takeTurn {turn : Turn} {s t : State} (h : takeTurn turn s = .next t) : TurnEffect s turn t := by
  cases turn with
  | host a => exact turnEffect_of_hostTurn h
  | engine => exact turnEffect_of_engineTurn h
  | reset =>
    cases h
    exact .reset

/-! ### The outcome of a command -/

/-- A word that decodes is its OPCODE, since RSVD is 0 (30_encoding.md R60-R62). -/
theorem toNat_of_decodeWord {w : Word} {i : Instr} (h : decodeWord w = .ok i) : w.toNat = (opcodeOf i).toNat := by
  have hop : w.toNat % 16 = (opcodeOf i).toNat := by
    rw [← opcode_of_decodeWord h]
    simp [opcodeField]
  have hres : w.toNat / 16 = 0 := by
    have h0 : reservedField w = 0 := by
      by_contra hne
      rw [decodeWord, if_pos hne] at h
      cases h
    have hdiv : w.toNat / 2 ^ 4 % 2 ^ 60 = 0 := by
      simpa [reservedField, BitVec.extractLsb'_toNat, Nat.shiftRight_eq_div_pow] using congrArg BitVec.toNat h0
    have := w.isLt
    omega
  omega

/-- The point commands (30_encoding.md R61). -/
theorem isPointOp_opcodeOf_iff (i : Instr) : isPointOp (opcodeOf i) ↔ i = .dbl ∨ i = .add ∨ i = .smul := by
  unfold isPointOp
  cases i <;> decide

/-- The other commands are no point commands. -/
theorem not_isPointOp_opcodeOf {i : Instr} (h : ¬(i = .dbl ∨ i = .add ∨ i = .smul)) : ¬ isPointOp (opcodeOf i) :=
  mt (isPointOp_opcodeOf_iff i).1 h

/-- CONFIG succeeds with the latched staging curve, a legal one (40_control.md R84). -/
theorem configOutcome_eq_ok {l : Latched} {w : Writes} (h : configOutcome l = .ok w) :
    cfgValid l.cfg.params = true ∧ w = { cur := some l.cfg } := by
  unfold configOutcome at h
  split at h
  · next hc =>
    cases h
    exact ⟨hc, rfl⟩
  · cases h

/-- INV succeeds with the field inverse (41_field.md R92). -/
theorem invOutcome_eq_ok {l : Latched} {w : Writes} (h : invOutcome l = .ok w) :
    ∃ r, feInv l.params l.fieldOperand = .ok r ∧ w = { rx := some (enc64 r) } := by
  unfold invOutcome at h
  split at h
  · next r hr =>
    cases h
    exact ⟨r, hr, rfl⟩
  · cases h

/-- The point function a point command calls once its operands are known to be canonical, with what it answers
(42_point.md R103, R105; 43_scalar.md R131). -/
inductive PointCall (f : Flight) : Instr → Except Err Point → Prop where
  | dbl (h1 : f.lat.canon1 = true) : PointCall f .dbl (ptDouble f.lat.params f.lat.point1)
  | add (h1 : f.lat.canon1 = true) (h2 : f.lat.canon2 = true) :
      PointCall f .add (ptAdd f.lat.params f.lat.point1 f.lat.point2)
  | smul (h1 : f.lat.canon1 = true) : PointCall f .smul (smulFinish f)

/-- A point command reports RANGE or what its point function answers (42_point.md R106). -/
theorem outcomeOf_point {i : Instr} (hi : i = .dbl ∨ i = .add ∨ i = .smul) (f : Flight) :
    outcomeOf i f = .error .range ∨ ∃ o, PointCall f i o ∧ outcomeOf i f = pointOutcome o := by
  rcases hi with rfl | rfl | rfl
  · by_cases h : f.lat.canon1 = true
    · exact .inr ⟨_, .dbl h, if_pos h⟩
    · exact .inl (if_neg h)
  · by_cases h : (f.lat.canon1 && f.lat.canon2) = true
    · obtain ⟨h1, h2⟩ := Bool.and_eq_true_iff.1 h
      exact .inr ⟨_, .add h1 h2, if_pos h⟩
    · exact .inl (if_neg h)
  · by_cases h : f.lat.canon1 = true
    · exact .inr ⟨_, .smul h, if_pos h⟩
    · exact .inl (if_neg h)

/-- Under a legal curve a point function raises nothing and gives a canonical point (42_point.md R109, 60_exceptions.md
R154). -/
theorem PointCall.canonical {f : Flight} {i : Instr} {o : Except Err Point} (h : PointCall f i o)
    (hc : cfgValid f.lat.params = true) (hl : ∀ l, f.loop = some l → f.LoopConsistent l) :
    ∃ P, o = .ok P ∧ P.Canonical f.lat.params := by
  cases h with
  | dbl h1 => exact ptDouble_spec hc (point1_canonical h1)
  | add h1 h2 => exact ptAdd_spec hc (point1_canonical h1) (point2_canonical h2)
  | smul h1 =>
    rw [smulFinish_eq hl]
    exact ptSmul_spec hc (point1_canonical h1) _

/-- A point command that succeeds writes a point's coordinates and INF flag. -/
theorem outcomeOf_point_eq_ok {i : Instr} {f : Flight} {w : Writes} (hi : i = .dbl ∨ i = .add ∨ i = .smul)
    (h : outcomeOf i f = .ok w) : ∃ P, w = pointWrites P := by
  rcases outcomeOf_point hi f with ho | ⟨o, -, ho⟩ <;> rw [ho] at h
  · cases h
  · cases o with
    | ok P =>
      cases h
      exact ⟨P, rfl⟩
    | error e => cases h

/-- What each command writes when it succeeds (30_encoding.md R66). -/
theorem outcomeOf_eq_ok {i : Instr} {f : Flight} {w : Writes} (h : outcomeOf i f = .ok w) :
    (i = .nop ∧ w = {}) ∨
    (i = .config ∧ cfgValid f.lat.cfg.params = true ∧ w = { cur := some f.lat.cfg }) ∨
    ((i = .red ∨ i = .inv) ∧ ∃ v, w = { rx := some v }) ∨
    (i = .onCurve ∧ ∃ b, w = { bool := b }) ∨
    ((i = .dbl ∨ i = .add ∨ i = .smul) ∧ ∃ P, w = pointWrites P) := by
  cases i with
  | nop =>
    cases h
    exact .inl ⟨rfl, rfl⟩
  | config => exact .inr (.inl ⟨rfl, configOutcome_eq_ok h⟩)
  | red =>
    cases h
    exact .inr (.inr (.inl ⟨.inl rfl, _, rfl⟩))
  | inv =>
    obtain ⟨r, -, hw⟩ := invOutcome_eq_ok h
    exact .inr (.inr (.inl ⟨.inr rfl, _, hw⟩))
  | onCurve =>
    cases h
    exact .inr (.inr (.inr (.inl ⟨rfl, _, rfl⟩)))
  | dbl => exact .inr (.inr (.inr (.inr ⟨.inl rfl, outcomeOf_point_eq_ok (.inl rfl) h⟩)))
  | add => exact .inr (.inr (.inr (.inr ⟨.inr (.inl rfl), outcomeOf_point_eq_ok (.inr (.inl rfl)) h⟩)))
  | smul => exact .inr (.inr (.inr (.inr ⟨.inr (.inr rfl), outcomeOf_point_eq_ok (.inr (.inr rfl)) h⟩)))

end Sys2Proof.Machine
end

section
/-! PROOFS of the statements of 10_state.md, the invariant: every turn of every agent keeps `State.Inv`. -/

namespace Sys2Proof.Machine

variable {s t : State} {f : Flight}

/-! ### SMUL's hidden loop (10_state.md R25) -/

/-- The loop begins consistent: the seed is the point itself, from the leading bit (43_scalar.md R130). -/
theorem loopConsistent_seed (hd : decodeWord f.lat.cmd = .ok .smul) (hcanon : f.lat.canon1 = true)
    (hk : 2 ≤ f.lat.scalar) : f.LoopConsistent ⟨f.lat.point1, bitLength f.lat.scalar - 1⟩ where
  isSmul := hd
  canonical := hcanon
  scalar := hk
  idx := by
    have hlen : bitLength f.lat.scalar ≠ 0 := by
      simp only [bitLength]
      split <;> omega
    exact Nat.sub_one_lt hlen
  rest := (ptSmul_of_pos (by omega)).symm

/-- An iteration that raises nothing keeps the loop consistent. -/
theorem Flight.LoopConsistent.iterate {acc acc' : Point} {i : Nat} (h : f.LoopConsistent ⟨acc, i + 1⟩)
    (hit : smulIter f.lat.params f.lat.point1 acc (f.lat.scalar.testBit i) = .ok acc') :
    f.LoopConsistent ⟨acc', i⟩ where
  isSmul := h.isSmul
  canonical := h.canonical
  scalar := h.scalar
  idx := Nat.lt_of_succ_lt h.idx
  rest := by
    rw [← h.rest]
    simp only [smulLoop, hit]

/-- An internal step of an SMUL leaves a consistent loop, if any. -/
theorem smulAdvance_consistent (hd : decodeWord f.lat.cmd = .ok .smul) {o : Option SmulLoop}
    (ho : ∀ l, o = some l → f.LoopConsistent l) {l : SmulLoop} (h : smulAdvance f.lat o = some l) :
    f.LoopConsistent l := by
  match o with
  | none =>
    simp only [smulAdvance, Option.ite_none_right_eq_some, Bool.and_eq_true, decide_eq_true_eq] at h
    obtain ⟨⟨hcanon, hk⟩, hl⟩ := h
    cases hl
    exact loopConsistent_seed hd hcanon hk
  | some ⟨acc, 0⟩ =>
    cases h
    exact ho _ rfl
  | some ⟨acc, i + 1⟩ =>
    simp only [smulAdvance] at h
    split at h <;> cases h
    · next hit => exact (ho _ rfl).iterate hit
    · exact ho _ rfl

/-- Consistency speaks of what issue latched, which an internal step keeps. -/
theorem Flight.LoopConsistent.advance {l : SmulLoop} (h : f.LoopConsistent l) (left : Nat) :
    (f.advance left).LoopConsistent l where
  isSmul := h.isSmul
  canonical := h.canonical
  scalar := h.scalar
  idx := h.idx
  rest := h.rest

/-- An internal step of any command leaves a consistent loop, if any. -/
theorem advance_loopConsistent (hl : ∀ l, f.loop = some l → f.LoopConsistent l) (left : Nat) {l : SmulLoop}
    (h : (f.advance left).loop = some l) : (f.advance left).LoopConsistent l := by
  refine Flight.LoopConsistent.advance ?_ left
  simp only [Flight.advance] at h
  split at h
  · next hd => exact smulAdvance_consistent hd hl h
  · exact hl l h

/-! ### What no turn but issue and completion can disturb -/

/-- The invariant rests on the active curve, the results, the command in flight and STATUS but for OVR and a DONE that
falls. -/
theorem State.Inv.congr (h : s.Inv) (hcur : t.cur = s.cur) (hrx : t.rx = s.rx) (hry : t.ry = s.ry)
    (hflight : t.flight = s.flight)
    (hstatus : t.status = { s.status with done := t.status.done, ovr := t.status.ovr })
    (hdone : s.status.done = false → t.status.done = false) : t.Inv := by
  have hbool : t.status.bool = s.status.bool := by rw [hstatus]
  have hinf : t.status.inf = s.status.inf := by rw [hstatus]
  have herr : t.status.err = s.status.err := by rw [hstatus]
  have hlast : t.status.lastop = s.status.lastop := by rw [hstatus]
  constructor
  case flight =>
    intro f hf
    have hs := h.flight f (hflight ▸ hf)
    constructor
    case done => exact hdone hs.done
    case loop => exact hs.loop
    all_goals simp only [hcur, hbool, hinf, herr, hlast]
    exacts [hs.curve, hs.bool, hs.inf, hs.err, hs.lastop]
  all_goals simp only [hcur, hrx, hry, hflight, hbool, hinf, herr, hlast]
  exacts [h.curve, h.rx, h.ry, h.bool, h.inf, h.infIff, h.err]

/-- The reply on the bus is not the engine's. -/
theorem inv_withReply (h : s.Inv) (r : Reply) : (s.withReply r).Inv :=
  h.congr rfl rfl rfl rfl rfl id

/-- The agenda is not the engine's. -/
theorem inv_withAgenda (h : s.Inv) (ts : List Turn) : (s.withAgenda ts).Inv :=
  h.congr rfl rfl rfl rfl rfl id

/-! ### Issue -/

/-- Issue puts a consistent command in flight (40_control.md R80). -/
theorem inFlight_issue (s : State) (w : Word) :
    (s.issue w).InFlight
      { lat := s.latch w, left := Config.internalSteps s.env.draws w (s.latch w).copies, loop := none } where
  curve := rfl
  done := rfl
  bool := rfl
  inf := rfl
  err := rfl
  lastop := rfl
  loop := nofun

/-- Issue keeps the invariant: the flags are cleared, and the results and the active curve stay (40_control.md R80). -/
theorem inv_issue (h : s.Inv) (w : Word) : (s.issue w).Inv where
  curve := h.curve
  rx := h.rx
  ry := h.ry
  bool := nofun
  inf := nofun
  infIff := nofun
  err := trivial
  flight f hf := by
    cases hf
    exact inFlight_issue s w

/-- A host write of any register keeps the invariant (20_memory.md R42). -/
theorem inv_writeReg (h : s.Inv) (r : Reg) (v : Word) : (writeReg s r v).Inv := by
  cases r
  case cmd =>
    simp only [writeReg, State.writeCmd]
    split
    · exact h.congr rfl rfl rfl rfl rfl id
    · exact inv_issue h v
  case status =>
    refine h.congr rfl rfl rfl rfl rfl fun hd => ?_
    simp [writeReg, hd]
  all_goals exact h.congr rfl rfl rfl rfl rfl id

/-! ### Internal steps -/

/-- An internal step moves only the hidden loop, which stays consistent (10_state.md R25). -/
theorem inv_internalStep (h : s.Inv) (hf : s.flight = some f) (left : Nat) : (internalStep s f left).Inv where
  curve := h.curve
  rx := h.rx
  ry := h.ry
  bool := h.bool
  inf := h.inf
  infIff := nofun
  err := h.err
  flight g hg := by
    cases hg
    obtain ⟨curve, done, bool, inf, err, lastop, loop⟩ := h.flight f hf
    exact ⟨curve, done, bool, inf, err, lastop, fun _ => advance_loopConsistent loop left⟩

/-! ### Completion -/

/-- What a command of this OPCODE writes agrees with the flags the invariant ties to LASTOP (10_state.md R12, R15, R19;
42_point.md R108). -/
structure Writes.Agree (op : BitVec 4) (w : Writes) : Prop where
  cur : ∀ c, w.cur = some c → cfgValid c.params = true
  rx : ∀ v, w.rx = some v → v.toNat < 2 ^ 63
  ry : ∀ v, w.ry = some v → v.toNat < 2 ^ 63
  bool : w.bool = true → op = 4
  inf : w.inf = true → isPointOp op
  point : isPointOp op → ∃ x y, w.rx = some x ∧ w.ry = some y ∧ (w.inf = true ↔ x = 0 ∧ y = 0)

/-- A completion with results that agree with LASTOP keeps the invariant. -/
theorem inv_complete_ok (h : s.Inv) {w : Writes} (hw : w.Agree s.status.lastop) : (s.complete (.ok w)).Inv where
  curve := by
    cases hc : w.cur with
    | none => simpa [hc] using h.curve
    | some c => simpa [hc] using hw.cur c hc
  rx := by
    cases hx : w.rx with
    | none => simpa [hx] using h.rx
    | some v => simpa [hx] using hw.rx v hx
  ry := by
    cases hy : w.ry with
    | none => simpa [hy] using h.ry
    | some v => simpa [hy] using hw.ry v hy
  bool hb := ⟨hw.bool hb, rfl⟩
  inf hi := by
    obtain ⟨x, y, hx, hy, hxy⟩ := hw.point (hw.inf hi)
    obtain ⟨rfl, rfl⟩ := hxy.1 hi
    exact ⟨hw.inf hi, rfl, by simp [hx], by simp [hy]⟩
  infIff _ hop _ hrx hry := by
    obtain ⟨x, y, hx, hy, hxy⟩ := hw.point hop
    exact hxy.2 ⟨by simpa [hx] using hrx, by simpa [hy] using hry⟩
  err := trivial
  flight := nofun

/-- A completion with an error that agrees with LASTOP keeps the invariant: BOOL and INF are 0 since issue
(60_exceptions.md R152). -/
theorem inv_complete_error (h : s.Inv) (hf : s.flight = some f) {e : Err} (he : errAgrees s.status.lastop (some e)) :
    (s.complete (.error e)).Inv where
  curve := h.curve
  rx := h.rx
  ry := h.ry
  bool hb := by simp [(h.flight f hf).bool] at hb
  inf hi := by simp [(h.flight f hf).inf] at hi
  infIff _ _ he := by cases he
  err := he
  flight := nofun

/-- A canonical value under a legal curve is non-negative as `sint64` once encoded (10_state.md R19). -/
theorem toNat_enc64_lt {c : Params} (hc : cfgValid c = true) {i : Int} (h0 : 0 ≤ i) (h : i < c.p) :
    (enc64 i).toNat < 2 ^ 63 := by
  obtain ⟨-, hmax, -⟩ := (cfgValid_iff c).1 hc
  have := toNat_enc64 h0 (by omega)
  omega

/-- The field inverse is canonical (41_field.md R91). -/
theorem feInv_canonical {c : Params} (hp : 0 < c.p) {v r : Int} (h : feInv c v = .ok r) : 0 ≤ r ∧ r < c.p := by
  have hne : reduce c v ≠ 0 := by
    intro h0
    rw [(feInv_error_iff c v).2 h0] at h
    cases h
  rw [feInv_ok v hne] at h
  cases h
  exact ⟨mod_nonneg _ hp, mod_lt _ hp⟩

/-- The only error of the field inverse is DIV_ZERO (41_field.md R91). -/
theorem feInv_eq_error {c : Params} {v : Int} {e : Err} (h : feInv c v = .error e) : e = .divZero := by
  unfold feInv at h
  split at h <;> cases h
  rfl

/-- A field command writes RX alone, a canonical value. -/
theorem agree_field {op : BitVec 4} (hop : ¬ isPointOp op) {c : Params} (hc : cfgValid c = true) {r : Int}
    (h0 : 0 ≤ r) (hr : r < c.p) : Writes.Agree op { rx := some (enc64 r) } where
  cur := nofun
  rx v hv := by
    cases hv
    exact toNat_enc64_lt hc h0 hr
  ry := nofun
  bool := nofun
  inf := nofun
  point h := absurd h hop

/-- A point command writes a canonical point, and INF is the literal test on it (42_point.md R108, R109). -/
theorem agree_pointWrites {op : BitVec 4} (hop : isPointOp op) {c : Params} (hc : cfgValid c = true) {P : Point}
    (hP : P.Canonical c) : Writes.Agree op (pointWrites P) := by
  obtain ⟨hx0, hx, hy0, hy⟩ := hP
  obtain ⟨-, hmax, -⟩ := (cfgValid_iff c).1 hc
  constructor
  case rx =>
    intro v hv
    cases hv
    exact toNat_enc64_lt hc hx0 hx
  case ry =>
    intro v hv
    cases hv
    exact toNat_enc64_lt hc hy0 hy
  case point =>
    refine fun _ => ⟨_, _, rfl, rfl, ?_⟩
    rw [enc64_eq_zero hx0 (by omega), enc64_eq_zero hy0 (by omega)]
    simp [pointWrites, infFlag, Point.isInf]
  case inf => exact fun _ => hop
  all_goals nofun

/-- What an outcome has to meet for its completion to keep the invariant. -/
def OutcomeAgrees (op : BitVec 4) : Except Err Writes → Prop
  | .ok w => w.Agree op
  | .error e => errAgrees op (some e)

/-- A point command's outcome under a legal curve: RANGE or a canonical point. -/
theorem outcomeAgrees_point {i : Instr} (hi : i = .dbl ∨ i = .add ∨ i = .smul) (hc : cfgValid f.lat.params = true)
    (hl : ∀ l, f.loop = some l → f.LoopConsistent l) : OutcomeAgrees (opcodeOf i) (outcomeOf i f) := by
  have hop := (isPointOp_opcodeOf_iff i).2 hi
  rcases outcomeOf_point hi f with h | ⟨o, hcall, h⟩ <;> rw [h]
  · exact hop
  · obtain ⟨P, rfl, hP⟩ := hcall.canonical hc hl
    exact agree_pointWrites hop hc hP

/-- Every command's outcome under a legal curve agrees with its OPCODE. -/
theorem outcomeOf_agrees (i : Instr) (hc : cfgValid f.lat.params = true)
    (hl : ∀ l, f.loop = some l → f.LoopConsistent l) : OutcomeAgrees (opcodeOf i) (outcomeOf i f) := by
  have hp := modulus_pos hc
  cases i with
  | nop => exact ⟨nofun, nofun, nofun, nofun, nofun, fun h => absurd h (not_isPointOp_opcodeOf (by decide))⟩
  | config =>
    simp only [outcomeOf, configOutcome]
    split
    · next hcfg =>
      refine ⟨fun c h => ?_, nofun, nofun, nofun, nofun, fun h => absurd h (not_isPointOp_opcodeOf (by decide))⟩
      cases h
      exact hcfg
    · rfl
  | red => exact agree_field (not_isPointOp_opcodeOf (by decide)) hc (reduce_nonneg hp _) (reduce_lt hp _)
  | inv =>
    simp only [outcomeOf, invOutcome]
    split
    · next r hr =>
      obtain ⟨h0, hlt⟩ := feInv_canonical hp hr
      exact agree_field (not_isPointOp_opcodeOf (by decide)) hc h0 hlt
    · next e he =>
      obtain rfl := feInv_eq_error he
      rfl
  | onCurve =>
    exact ⟨nofun, nofun, nofun, fun _ => rfl, nofun, fun h => absurd h (not_isPointOp_opcodeOf (by decide))⟩
  | dbl => exact outcomeAgrees_point (.inl rfl) hc hl
  | add => exact outcomeAgrees_point (.inr (.inl rfl)) hc hl
  | smul => exact outcomeAgrees_point (.inr (.inr rfl)) hc hl

/-- The completion of an outcome that agrees with LASTOP keeps the invariant. -/
theorem inv_complete (h : s.Inv) (hf : s.flight = some f) {o : Except Err Writes}
    (ho : OutcomeAgrees s.status.lastop o) : (s.complete o).Inv := by
  cases o with
  | ok w => exact inv_complete_ok h ho
  | error e => exact inv_complete_error h hf ho

/-! ### Every step -/

/-- The reset state meets the invariant (70_reset_and_hazards.md R183). -/
theorem inv_reset : State.reset.Inv where
  curve := by decide
  rx := by decide
  ry := by decide
  bool := nofun
  inf := nofun
  infIff _ hop := by
    unfold isPointOp at hop
    revert hop
    decide
  err := trivial
  flight := nofun

/-- The reset step leaves the reset state but for the environment (70_reset_and_hazards.md R180). -/
theorem inv_resetTurn (s : State) : (resetTurn s).Inv :=
  inv_reset.congr rfl rfl rfl rfl rfl id

/-- A turn of any agent keeps the invariant. -/
theorem inv_of_turnEffect {turn : Turn} (h : s.Inv) (ht : TurnEffect s turn t) : t.Inv := by
  cases ht with
  | reset => exact inv_resetTurn s
  | read r => exact inv_withReply h _
  | write r lanes hlen => exact inv_withReply (inv_writeReg h r _) _
  | idle _ => exact h
  | internal f left hf _ => exact inv_internalStep h hf left
  | complete f i hf hleft hi =>
    have hfl := h.flight f hf
    have hc : cfgValid f.lat.params = true := by
      rw [Latched.params, hfl.curve]
      exact h.curve
    have hlast : s.status.lastop = opcodeOf i := by rw [hfl.lastop, opcode_of_decodeWord hi]
    exact inv_complete h hf (hlast ▸ outcomeOf_agrees i hc hfl.loop)
  | illegal f _ hf _ _ => exact inv_complete h hf trivial

/-- Settles O56: taking the turn from the agenda is not the engine's business, and each effect of a turn keeps the
invariant. -/
theorem invKeptByStep : Obligations.InvKeptByStep := by
  intro s t h hstep
  obtain ⟨ts, hts⟩ := popTurn_state s
  have hpop : s.popTurn.2.Inv := hts ▸ inv_withAgenda h ts
  exact inv_of_turnEffect hpop (turnEffect_of_takeTurn hstep)

end Sys2Proof.Machine
end

section
/-! PROOFS of the statements of 10_state.md: what an outcome depends on, and who may change the curve, the results and the
operands (R15-R19, R24, R29). -/

namespace Sys2Proof.Machine

/-! ### Noninterference (R24, R29) -/

/-- An optional write stores the same value over any old one, or leaves both old ones. -/
theorem getD_eq_or_unchanged {α : Type} (o : Option α) (a b : α) :
    o.getD a = o.getD b ∨ (o.getD a = a ∧ o.getD b = b) := by
  cases o with
  | none => exact .inr ⟨rfl, rfl⟩
  | some v => exact .inl rfl

/-- Settles O37: `exec` completes with an outcome that is a function of the command in flight. -/
theorem outcomeDependsOnLatchedAlone : Obligations.OutcomeDependsOnLatchedAlone := by
  intro i s1 s2 f h1 h2
  refine ⟨_, _, exec_of_flight i h1, exec_of_flight i h2, ?_⟩
  cases outcomeOf i f with
  | ok w =>
    exact ⟨rfl, fun _ => ⟨rfl, rfl⟩, getD_eq_or_unchanged _ _ _, getD_eq_or_unchanged _ _ _,
      getD_eq_or_unchanged _ _ _⟩
  | error e => exact ⟨rfl, nofun, .inr ⟨rfl, rfl⟩, .inr ⟨rfl, rfl⟩, .inr ⟨rfl, rfl⟩⟩

/-! ### The active curve (R15) -/

/-- Only CONFIG writes the active curve, with the latched staging curve, a legal one (30_encoding.md R66). -/
theorem outcomeOf_cur {i : Instr} {f : Flight} {w : Writes} {c : Curve} (h : outcomeOf i f = .ok w)
    (hc : w.cur = some c) : i = .config ∧ c = f.lat.cfg ∧ cfgValid c.params = true := by
  rcases outcomeOf_eq_ok h with ⟨-, rfl⟩ | ⟨rfl, hvalid, rfl⟩ | ⟨-, v, rfl⟩ | ⟨-, b, rfl⟩ | ⟨-, P, rfl⟩
  case inr.inl =>
    cases hc
    exact ⟨rfl, rfl, hvalid⟩
  all_goals cases hc

/-- Settles O38, by the effect of each turn: the host and an internal step leave the curve, and a completion changes it by
`outcomeOf_cur`. -/
theorem onlyConfigAndResetChangeTheCurve : Obligations.OnlyConfigAndResetChangeTheCurve := by
  intro turn s t h hne
  cases turnEffect_of_takeTurn h with
  | reset => exact .inl ⟨rfl, rfl⟩
  | write r lanes hlen => exact absurd (writeReg_results s r _).2.2 hne
  | complete f i hf hleft hi =>
    cases ho : outcomeOf i f with
    | error e => exact absurd (by rw [ho]; rfl) hne
    | ok w =>
      rw [ho, State.complete_ok_cur] at hne
      cases hc : w.cur with
      | none => exact absurd (by rw [hc]; rfl) hne
      | some c =>
        obtain ⟨rfl, hcfg, hvalid⟩ := outcomeOf_cur ho hc
        have hcur : (s.complete (.ok w)).cur = c := by simp [hc]
        refine .inr ⟨f, rfl, hf, BitVec.eq_of_toNat_eq (toNat_of_decodeWord hi), ?_, ?_, rfl⟩
        · rw [hcur, hcfg]
        · rw [hcur, hvalid]
  | read | idle | internal | illegal => exact absurd rfl hne

/-! ### The results (R19) -/

/-- Only RED, INV and the point commands write RX (30_encoding.md R66). -/
theorem outcomeOf_rx {i : Instr} {f : Flight} {w : Writes} (h : outcomeOf i f = .ok w) (hw : w.rx ≠ none) :
    i = .red ∨ i = .inv ∨ i = .dbl ∨ i = .add ∨ i = .smul := by
  rcases outcomeOf_eq_ok h with ⟨-, rfl⟩ | ⟨-, -, rfl⟩ | ⟨hi, -⟩ | ⟨-, b, rfl⟩ | ⟨hi, -⟩
  · exact absurd rfl hw
  · exact absurd rfl hw
  · tauto
  · exact absurd rfl hw
  · tauto

/-- Only the point commands write RY (30_encoding.md R66). -/
theorem outcomeOf_ry {i : Instr} {f : Flight} {w : Writes} (h : outcomeOf i f = .ok w) (hw : w.ry ≠ none) :
    i = .dbl ∨ i = .add ∨ i = .smul := by
  rcases outcomeOf_eq_ok h with ⟨-, rfl⟩ | ⟨-, -, rfl⟩ | ⟨-, v, rfl⟩ | ⟨-, b, rfl⟩ | ⟨hi, -⟩
  case inr.inr.inr.inr => exact hi
  all_goals exact absurd rfl hw

/-- An optional write that changes something is one. -/
theorem ne_none_of_getD_ne {α : Type} {o : Option α} {a : α} (h : o.getD a ≠ a) : o ≠ none := by
  rintro rfl
  exact h rfl

/-- Settles O39, by the effect of each turn: the host and an internal step leave RX and RY, and a completion writes them by
`outcomeOf_rx` and `outcomeOf_ry`. -/
theorem onlyCompletionAndResetChangeResults : Obligations.OnlyCompletionAndResetChangeResults := by
  intro turn s t h hne
  cases turnEffect_of_takeTurn h with
  | reset => exact .inl rfl
  | write r lanes hlen =>
    obtain ⟨hrx, hry, -⟩ := writeReg_results s r (ofLanes lanes)
    exact absurd hne (not_or.2 ⟨not_not.2 hrx, not_not.2 hry⟩)
  | complete f i hf hleft hi =>
    cases ho : outcomeOf i f with
    | error e =>
      rw [ho] at hne
      simp at hne
    | ok w =>
      refine .inr ⟨f, rfl, hf, hleft, rfl, rfl, rfl, fun hrx => ?_, fun hry => ?_⟩ <;> rw [toNat_of_decodeWord hi]
      · rcases outcomeOf_rx ho (ne_none_of_getD_ne hrx) with rfl | rfl | rfl | rfl | rfl <;> decide
      · rcases outcomeOf_ry ho (ne_none_of_getD_ne hry) with rfl | rfl | rfl <;> decide
  | read | idle | internal | illegal => simp at hne

/-! ### The operand and staging registers (R16-R18) -/

/-- The registers that hold whatever the host writes to them (10_state.md R16-R18). -/
def Reg.StoresWrites (r : Reg) : Prop :=
  r = .x1 ∨ r = .y1 ∨ r = .x2 ∨ r = .y2 ∨ r = .k ∨ r = .cfgP ∨ r = .cfgA ∨ r = .cfgB

/-- These registers read the same when the operands and the staging curve are the same. -/
theorem readReg_congr_of_storesWrites {s t : State} {r : Reg} (hr : r.StoresWrites) (hx1 : t.x1 = s.x1)
    (hy1 : t.y1 = s.y1) (hx2 : t.x2 = s.x2) (hy2 : t.y2 = s.y2) (hk : t.k = s.k) (hcfg : t.cfg = s.cfg) :
    readReg t r = readReg s r := by
  rcases hr with rfl | rfl | rfl | rfl | rfl | rfl | rfl | rfl <;> simp [readReg, *]

/-- No completion changes one (30_encoding.md R66). -/
theorem readReg_complete_of_storesWrites {r : Reg} (hr : r.StoresWrites) (s : State) (o : Except Err Writes) :
    readReg (s.complete o) r = readReg s r := by
  obtain ⟨hx1, hy1, hx2, hy2, hk, hcfg, -⟩ := complete_frame s o
  exact readReg_congr_of_storesWrites hr hx1 hy1 hx2 hy2 hk hcfg

/-- A host write to one stores the value (20_memory.md R42). -/
theorem readReg_writeReg_same {r : Reg} (hr : r.StoresWrites) (s : State) (v : Word) :
    readReg (writeReg s r v) r = v := by
  rcases hr with rfl | rfl | rfl | rfl | rfl | rfl | rfl | rfl <;> rfl

/-- A host write to another register leaves it: each write of `writeReg` against each read (20_memory.md R42). -/
theorem readReg_writeReg_of_ne {r g : Reg} (hr : r.StoresWrites) (hne : g ≠ r) (s : State) (v : Word) :
    readReg (writeReg s g v) r = readReg s r := by
  cases g
  case cmd =>
    simp only [writeReg, State.writeCmd]
    split <;> exact readReg_congr_of_storesWrites hr rfl rfl rfl rfl rfl rfl
  all_goals rcases hr with rfl | rfl | rfl | rfl | rfl | rfl | rfl | rfl <;> simp_all [writeReg, readReg]

/-- Settles O40, by the effect of each turn: of the host's writes only the one to the register itself changes it. -/
theorem onlyTheHostAndResetChangeOperands : Obligations.OnlyTheHostAndResetChangeOperands := by
  intro turn s t r hr h hne
  have hr : r.StoresWrites := hr
  cases turnEffect_of_takeTurn h with
  | reset => exact .inl ⟨rfl, readReg_congr_of_storesWrites hr rfl rfl rfl rfl rfl rfl⟩
  | write g lanes hlen =>
    rw [readReg_withReply] at hne ⊢
    obtain rfl : g = r := by
      by_contra hgr
      exact hne (readReg_writeReg_of_ne hr hgr s _)
    exact .inr ⟨lanes, rfl, hlen, readReg_writeReg_same hr s _⟩
  | read g => exact absurd (readReg_withReply s _ r) hne
  | idle => exact absurd rfl hne
  | internal f left =>
    have heq : readReg (internalStep s f left) r = readReg s r :=
      readReg_congr_of_storesWrites hr rfl rfl rfl rfl rfl rfl
    exact absurd heq hne
  | complete | illegal => exact absurd (readReg_complete_of_storesWrites hr s _) hne

end Sys2Proof.Machine
end

section
/-! PROOFS of the statements of 10_state.md: the register window, STATUS, CTRL and the reset values (R10-R14). -/

namespace Sys2Proof.Machine

/-! ### Host accesses of a register (20_memory.md R41, R42) -/

/-- An 8-byte read at a register's offset. -/
theorem takeTurn_read (s : State) (r : Reg) :
    takeTurn (.host (.read r.offset 8)) s = .next (s.withReply (.data (lanesOf (readReg s r)))) := by
  simp only [takeTurn, hostTurn, target_read_offset, access]

/-- A write of a word at a register's offset. -/
theorem takeTurn_write (s : State) (r : Reg) (v : Word) :
    takeTurn (.host (.write r.offset (lanesOf v))) s = .next ((writeReg s r v).withReply .written) := by
  simp only [takeTurn, hostTurn, target_write_lanesOf, access, ofLanes_lanesOf]

/-- Every aligned offset up to 0x78 is some register's (10_state.md R10). -/
theorem exists_offset_eq {off : Offset} (halign : off.toNat % 8 = 0) (hle : off.toNat ≤ 0x78) :
    ∃ r : Reg, r.offset = off := by
  have hsome : Reg.ofOffset off ≠ none := by
    rw [Ne, ofOffset_eq_none_iff]
    omega
  obtain ⟨r, hr⟩ := Option.ne_none_iff_exists'.1 hsome
  exact ⟨r, ((ofOffset_eq_some_iff off r).1 hr).symm⟩

/-- Settles O42, by `takeTurn_read` at the register of the offset; the values and the offsets are those of `readReg` and
`Reg.offset`. -/
theorem busReadReturnsTheRegister : Obligations.BusReadReturnsTheRegister := by
  refine ⟨fun s off halign hle => ?_, fun s => ?_, ?_⟩
  · obtain ⟨r, rfl⟩ := exists_offset_eq halign hle
    exact ⟨r, rfl, takeTurn_read s r⟩
  · exact ⟨rfl, rfl, rfl, rfl, rfl, rfl, rfl, rfl, rfl, rfl, rfl, rfl, rfl, rfl, rfl⟩
  · exact ⟨rfl, rfl, rfl, rfl, rfl, rfl, rfl, rfl, rfl, rfl, rfl, rfl, rfl, rfl, rfl, rfl⟩

/-- Settles O43, by `takeTurn_write` at each register's offset. -/
theorem busWriteStoresTheRegister : Obligations.BusWriteStoresTheRegister := by
  rintro s v e rfl
  exact ⟨takeTurn_write s .ctrl v, takeTurn_write s .cfgP v, takeTurn_write s .cfgA v, takeTurn_write s .cfgB v,
    takeTurn_write s .x1 v, takeTurn_write s .y1 v, takeTurn_write s .x2 v, takeTurn_write s .y2 v,
    takeTurn_write s .k v, takeTurn_write s .curP v, takeTurn_write s .curA v, takeTurn_write s .curB v,
    takeTurn_write s .rx v, takeTurn_write s .ry v⟩

/-! ### STATUS and CTRL (R12-R14) -/

/-- Settles O48: the fields of `State.statusWord`, bit by bit below 16, and nothing above. -/
theorem statusLayout : Obligations.StatusLayout := by
  intro s n
  simp only [State.statusWord, BitVec.getLsbD_append]
  rcases lt_or_ge n 16 with hn | hn
  · interval_cases n <;> simp
  · obtain ⟨m, rfl⟩ := Nat.exists_eq_add_of_le' hn
    simp

/-- A conditional clearing of a bit is a conjunction. -/
theorem ite_false_eq_and_not (b clear : Bool) : (if clear then false else b) = (b && !clear) := by
  cases clear <;> simp

/-- Settles O50: the write is `State.ackStatus`. -/
theorem statusWriteOneToClear : Obligations.StatusWriteOneToClear := by
  intro s w
  refine ⟨{ s.env with reply := some .written }, (takeTurn_write s .status w).trans ?_⟩
  simp only [← ite_false_eq_and_not s.status.done, ← ite_false_eq_and_not s.status.ovr]
  rfl

/-- CTRL as a number is IE (10_state.md R14). -/
theorem toNat_ctrlWord (s : State) : s.ctrlWord.toNat = s.ie.toNat := by
  rw [State.ctrlWord, BitVec.toNat_append]
  simp

/-- Settles O51: a write stores bit 0 in IE, and CTRL reads IE. -/
theorem ctrlHoldsOnlyIe : Obligations.CtrlHoldsOnlyIe := by
  intro s v
  refine ⟨toNat_ctrlWord s, (toNat_ctrlWord (s.writeCtrl v)).trans ?_⟩
  rw [State.writeCtrl_ie, BitVec.getLsbD, Nat.toNat_testBit]
  simp

/-! ### Reset values (R10) -/

/-- Settles O53: the fields of `State.reset`. -/
theorem resetValues : Obligations.ResetValues :=
  ⟨rfl, rfl, rfl, rfl, rfl, rfl, rfl, rfl, rfl, rfl, rfl, rfl, rfl, rfl, rfl, rfl⟩

end Sys2Proof.Machine
end

section
/-! PROOFS of the statements of 20_memory.md: error responses, byte lanes, the window, and a read after a write
(R40-R47). -/

namespace Sys2Proof.Machine

/-! ### Error responses (R43) -/

/-- An error response to a read carries a byte 0 for each byte asked for (20_memory.md R43). -/
theorem errorData_read (off : Offset) (width : Nat) :
    (Access.read off width).errorData.length = width ∧ ∀ b ∈ (Access.read off width).errorData, b = 0 :=
  ⟨List.length_replicate, fun _ => List.eq_of_mem_replicate⟩

/-- Settles O44: by `target_eq_none_iff` these are the accesses that reach no register, and `hostTurn_cases` says what
the host's step answers to each access. -/
theorem errorResponses : Obligations.ErrorResponses := by
  intro s a
  simp only [← target_eq_none_iff, takeTurn]
  rcases hostTurn_cases a s with ⟨r, hr, -, ht⟩ | ⟨r, off, lanes, hr, -, ht⟩ | ⟨hnone, ht⟩
  · rw [hr]
    exact ⟨nofun, fun _ => ⟨_, ht⟩⟩
  · rw [hr]
    exact ⟨nofun, fun _ => ⟨_, ht⟩⟩
  · refine ⟨fun _ => ⟨_, ht, ?_⟩, fun hsome => absurd hnone hsome⟩
    rintro off width rfl
    exact errorData_read off width

/-! ### The window (R40) -/

/-- The address at offset `off` of the window, and no other, has the offset `off` (20_memory.md R40). -/
theorem windowOffset_eq_some_iff (addr : Nat) (off : Offset) :
    windowOffset addr = some off ↔ addr = Config.engineBase + off.toNat := by
  have hoff : off.toNat < 256 := off.isLt
  by_cases hmem : Config.engineBase ≤ addr ∧ addr < Config.engineBase + 256
  · obtain ⟨h0, h⟩ := hmem
    rw [windowOffset_of_mem h0 h, Option.some.injEq, ← BitVec.toNat_inj, BitVec.toNat_ofNat,
      Nat.mod_eq_of_lt (by omega)]
    omega
  · rw [windowOffset_of_not_mem (by omega)]
    simp only [reduceCtorEq, false_iff]
    omega

/-- The addresses below and above the window, and no others, have no offset (20_memory.md R40). -/
theorem windowOffset_eq_none_iff (addr : Nat) :
    windowOffset addr = none ↔ addr < Config.engineBase ∨ Config.engineBase + 0xFF < addr := by
  by_cases hmem : Config.engineBase ≤ addr ∧ addr < Config.engineBase + 256
  · obtain ⟨h0, h⟩ := hmem
    rw [windowOffset_of_mem h0 h]
    simp only [reduceCtorEq, false_iff]
    omega
  · rw [windowOffset_of_not_mem (by omega)]
    simp only [true_iff]
    omega

/-- Settles O46, by the two equivalences above. -/
theorem windowOffsets : Obligations.WindowOffsets :=
  fun addr => ⟨windowOffset_eq_some_iff addr, windowOffset_eq_none_iff addr⟩

/-! ### Byte lanes (R44) -/

/-- Lane `i` of a word is its bits `[8i+7 : 8i]` (20_memory.md R44). -/
theorem getElem?_lanesOf (v : Word) {i : Nat} (hi : i < 8) : (lanesOf v)[i]? = some (v.extractLsb' (8 * i) 8) := by
  simp [lanesOf, List.getElem?_range hi]

/-- Every register's offset leaves room for its eight lanes below 0x80 (10_state.md R10). -/
theorem toNat_offset_le (r : Reg) : r.offset.toNat ≤ 0x78 := by
  cases r <;> decide

/-- Adding a lane's number to a register's offset does not wrap around. -/
theorem toNat_offset_add (r : Reg) {i : Nat} (hi : i < 8) :
    (r.offset + BitVec.ofNat 8 i).toNat = r.offset.toNat + i := by
  have hr := toNat_offset_le r
  rw [BitVec.toNat_add, BitVec.toNat_ofNat]
  omega

/-- Settles O45: the lanes are the word's bytes, and no lane of a register leaves the window. -/
theorem byteLanesAreLittleEndian : Obligations.ByteLanesAreLittleEndian := by
  intro v
  refine ⟨lanesOf_length v, ofLanes_lanesOf v, fun i hi => ⟨⟨_, getElem?_lanesOf v hi, ?_⟩, fun r => ?_⟩⟩
  · rw [BitVec.extractLsb'_toNat, Nat.shiftRight_eq_div_pow]
  · rw [windowOffset_eq_some_iff, toNat_offset_add r hi, laneAddress, Nat.add_assoc]

/-! ### A read after a write (R47) -/

/-- A host write to a register that stores it changes neither STATUS, BUSY nor CTRL (20_memory.md R42). -/
theorem writeReg_flags_of_storesWrites {r : Reg} (hr : r.StoresWrites) (s : State) (v : Word) :
    (writeReg s r v).status = s.status ∧ (writeReg s r v).flight = s.flight ∧ (writeReg s r v).ie = s.ie := by
  rcases hr with rfl | rfl | rfl | rfl | rfl | rfl | rfl | rfl <;> exact ⟨rfl, rfl, rfl⟩

/-- A host write to a register that stores it leaves every other register of the window (20_memory.md R42): one of the
same kind by `readReg_writeReg_of_ne`, and the rest read nothing such a write changes. -/
theorem readReg_writeReg_other {r g : Reg} (hr : r.StoresWrites) (hne : g ≠ r) (s : State) (v : Word) :
    readReg (writeReg s r v) g = readReg s g := by
  by_cases hg : g.StoresWrites
  · exact readReg_writeReg_of_ne hg hne.symm s v
  obtain ⟨hstatus, hflight, hie⟩ := writeReg_flags_of_storesWrites hr s v
  obtain ⟨hrx, hry, hcur⟩ := writeReg_results s r v
  cases g with
  | cmd => rfl
  | status => exact statusWord_congr hstatus (by simp only [busy_eq_isSome, hflight])
  | ctrl => simp only [readReg, State.ctrlWord, hie]
  | curP | curA | curB => simp only [readReg, hcur]
  | rx => exact hrx
  | ry => exact hry
  | x1 | y1 | x2 | y2 | k | cfgP | cfgA | cfgB => simp [Reg.StoresWrites] at hg

/-- The step of a host write to a register that stores it: the register reads the value, every other register reads as
before, and the rest of the agenda is still to come. -/
theorem step_write_of_storesWrites {s : State} {ts : List Turn} {r : Reg} {v : Word} (hr : r.StoresWrites)
    (h : s.env.agenda = .host (.write r.offset (lanesOf v)) :: ts) :
    ∃ t, step s = .next t ∧ t.env.agenda = ts ∧ readReg t r = v ∧ ∀ g : Reg, g ≠ r → readReg t g = readReg s g := by
  refine ⟨_, (step_cons h).trans (takeTurn_write _ r v), (writeReg_env _ r v).1, ?_, fun g hg => ?_⟩
  · rw [readReg_withReply, readReg_writeReg_same hr]
  · rw [readReg_withReply, readReg_writeReg_other hr hg, readReg_withAgenda]

/-- The step of a host read of a register: the reply is the register's lanes, and every register reads as before. -/
theorem step_read {s : State} {ts : List Turn} {r : Reg} (h : s.env.agenda = .host (.read r.offset 8) :: ts) :
    ∃ t, step s = .next t ∧ t.env.reply = some (.data (lanesOf (readReg s r))) ∧
      ∀ g : Reg, readReg t g = readReg s g := by
  refine ⟨_, (step_cons h).trans (takeTurn_read _ r), ?_, fun g => ?_⟩
  · rw [readReg_withAgenda]
    rfl
  · rw [readReg_withReply, readReg_withAgenda]

/-- Settles O47, by one step of the write and one of the read. -/
theorem readAfterWrite : Obligations.ReadAfterWrite := by
  intro s ts r v hkind hagenda
  have hr : r.StoresWrites := by
    unfold Reg.StoresWrites
    tauto
  obtain ⟨t, hwrite, hagenda', hv, hother⟩ := step_write_of_storesWrites hr hagenda
  obtain ⟨u, hread, hreply, hsame⟩ := step_read hagenda'
  rw [hv] at hreply
  refine ⟨u, (run_next 1 hwrite).trans (run_next 0 hread), hreply, (hsame r).trans hv, fun g hg => ?_⟩
  rw [hsame, hother g hg]

end Sys2Proof.Machine
end

section
/-! PROOFS of the statements of 30_encoding.md: the decoder and the encoder, the illegal words, and what each command
leaves unchanged (R60-R67, R156). -/

namespace Sys2Proof.Machine

/-! ### The two fields of a command word (R60) -/

/-- Bits 63:4 are clear exactly in the words below 16. -/
theorem reservedField_eq_zero_iff (w : Word) : reservedField w = 0 ↔ w.toNat / 16 = 0 := by
  have hw := w.isLt
  have htoNat : (reservedField w).toNat = w.toNat / 2 ^ 4 % 2 ^ 60 := by
    rw [reservedField, BitVec.extractLsb'_toNat, Nat.shiftRight_eq_div_pow]
  have hzero : (0 : BitVec 60).toNat = 0 := rfl
  rw [← BitVec.toNat_inj, htoNat, hzero]
  omega

/-- OPCODE as a number is the word's low four bits. -/
theorem toNat_opcodeField (w : Word) : (opcodeField w).toNat = w.toNat % 16 := by
  simp [opcodeField]

/-! ### Decoding a word (R61-R63) -/

/-- The command of an OPCODE is rejected for no other reason than an OPCODE of 8 or more (30_encoding.md R63). -/
theorem ofOpcode_eq_error_iff (op : BitVec 4) (r : Reject) :
    ofOpcode op = .error r ↔ r = .reservedOpcode ∧ 8 ≤ op.toNat := by
  revert op
  cases r <;> decide

/-- The reserved bits are looked at first, and OPCODE only when they are clear (30_encoding.md R62, R63). -/
theorem decodeWord_eq_error_iff (w : Word) (r : Reject) :
    decodeWord w = .error r ↔
      (r = .reservedBits ∧ w.toNat / 16 ≠ 0) ∨ (r = .reservedOpcode ∧ w.toNat / 16 = 0 ∧ 8 ≤ w.toNat % 16) := by
  by_cases hres : w.toNat / 16 = 0
  · rw [decodeWord, if_neg (not_not.2 ((reservedField_eq_zero_iff w).2 hres)), ofOpcode_eq_error_iff,
      toNat_opcodeField]
    simp [hres]
  · rw [decodeWord, if_pos (mt (reservedField_eq_zero_iff w).1 hres)]
    simp [hres, eq_comm]

/-- The illegal words are those of 8 and above (30_encoding.md R61). -/
theorem exists_decodeWord_eq_error_iff (w : Word) : (∃ r, decodeWord w = .error r) ↔ 8 ≤ w.toNat := by
  simp only [decodeWord_eq_error_iff, exists_or, exists_eq_left]
  omega

/-- The words that decode are those below 8 (30_encoding.md R61). -/
theorem exists_decodeWord_eq_ok_iff (w : Word) : (∃ i, decodeWord w = .ok i) ↔ w.toNat < 8 := by
  rw [← not_le, ← exists_decodeWord_eq_error_iff]
  cases decodeWord w <;> simp

/-! ### Decoding and encoding (R60, R61, R67) -/

theorem decodeWord_encode (i : Instr) : decodeWord (encode i) = .ok i := by
  cases i <;> rfl

/-- A word that decodes is its OPCODE, and so is an encoding, which decodes too. -/
theorem decodeWord_eq_ok_iff (w : Word) (i : Instr) : decodeWord w = .ok i ↔ w = encode i := by
  constructor
  · intro h
    apply BitVec.eq_of_toNat_eq
    rw [toNat_of_decodeWord h, toNat_of_decodeWord (decodeWord_encode i)]
  · rintro rfl
    exact decodeWord_encode i

/-- A command's only word is its OPCODE (30_encoding.md R61). -/
theorem decodeWord_eq_ok_iff_toNat (w : Word) (i : Instr) :
    decodeWord w = .ok i ↔ w.toNat = (opcodeOf i).toNat := by
  rw [decodeWord_eq_ok_iff, ← BitVec.toNat_inj, toNat_of_decodeWord (decodeWord_encode i)]

/-- The checks of a valid command word hold exactly below 8 (30_encoding.md R61). -/
theorem commandWellFormed_iff (w : Word) : commandWellFormed w = true ↔ w.toNat < 8 := by
  have hres : reservedClear w = true ↔ w.toNat / 16 = 0 := by
    simp [reservedClear, ← BitVec.toNat_inj, Nat.shiftRight_eq_div_pow]
  have hop : opcodeAssigned w = true ↔ w.toNat % 16 < 8 := by
    simp [opcodeAssigned, Nat.and_two_pow_sub_one_eq_mod w.toNat 4]
  rw [commandWellFormed, Bool.and_eq_true_iff, hres, hop]
  omega

/-- The first eight bytes are decoded as the word whose lanes they are, whatever follows (20_memory.md R44,
30_encoding.md R67). -/
theorem decodeBytes_lanesOf_append (w : Word) (rest : List Byte) :
    decodeBytes (lanesOf w ++ rest) = (decodeWord w).map (·, rest) := by
  have hlen : ¬(lanesOf w ++ rest).length < 8 := by
    rw [List.length_append, lanesOf_length]
    omega
  rw [decodeBytes, if_neg hlen, List.take_left' (lanesOf_length w), List.drop_left' (lanesOf_length w),
    ofLanes_lanesOf]
  cases decodeWord w <;> rfl

theorem decodeBytes_encodeBytes_append (i : Instr) (rest : List Byte) :
    decodeBytes (encodeBytes i ++ rest) = .ok (i, rest) := by
  rw [encodeBytes, decodeBytes_lanesOf_append, decodeWord_encode, Except.map]

/-- Settles O3: a command's only word is its encoding, and both well-formedness and decoding select the words below 8. -/
theorem decodeEncodeAgree : Obligations.DecodeEncodeAgree :=
  ⟨fun i rest _ => decodeBytes_encodeBytes_append i rest, decodeWord_eq_ok_iff,
    fun w => (commandWellFormed_iff w).trans (exists_decodeWord_eq_ok_iff w).symm⟩

/-- Settles O2, by `decodeWord_eq_ok_iff_toNat` at each command. -/
theorem opcodeMap : Obligations.OpcodeMap := by
  intro w
  exact ⟨decodeWord_eq_ok_iff_toNat w .nop, decodeWord_eq_ok_iff_toNat w .config, decodeWord_eq_ok_iff_toNat w .red,
    decodeWord_eq_ok_iff_toNat w .inv, decodeWord_eq_ok_iff_toNat w .onCurve, decodeWord_eq_ok_iff_toNat w .dbl,
    decodeWord_eq_ok_iff_toNat w .add, decodeWord_eq_ok_iff_toNat w .smul, exists_decodeWord_eq_error_iff w⟩

/-- Settles O4: each reason selects one case of `decodeWord_eq_error_iff`. -/
theorem rejectionReasons : Obligations.RejectionReasons := by
  intro w
  constructor <;> simp [decodeWord_eq_error_iff]

/-- Settles O1: the valid rows are encodings, and the illegal words are the lanes of words that `decodeWord` rejects. -/
theorem commandBytesDecode : Obligations.CommandBytesDecode :=
  ⟨decodeBytes_encodeBytes_append .nop [], decodeBytes_encodeBytes_append .config [],
    decodeBytes_encodeBytes_append .inv [], decodeBytes_encodeBytes_append .onCurve [],
    decodeBytes_encodeBytes_append .smul [], decodeBytes_lanesOf_append 0x8000000000000007 [],
    decodeBytes_lanesOf_append 0x8 []⟩

/-! ### Illegal words (R62, R156) -/

/-- A CMD write while BUSY = 0 is an issue (10_state.md R11). -/
theorem writeCmd_of_idle {s : State} (hf : s.flight = none) (w : Word) : s.writeCmd w = s.issue w := by
  simp [State.writeCmd, hf]

/-- The completion step of a word that does not decode (60_exceptions.md R156). -/
theorem engineTurn_of_rejected {s : State} {f : Flight} {r : Reject} (hf : s.flight = some f) (hleft : f.left = 0)
    (hr : decodeWord f.lat.cmd = .error r) : engineTurn s = .next (s.failedWith .illegal) := by
  simp only [engineTurn, hf, hleft, completionStep, hr, State.complete, State.failedWith]

/-- Settles O8: issue does not look at the word, and the completion step of one that does not decode fails with
ILLEGAL. -/
theorem illegalWordCompletes : Obligations.IllegalWordCompletes := by
  intro w hillegal
  obtain ⟨r, hr⟩ := (exists_decodeWord_eq_error_iff w).2 (by omega)
  refine ⟨fun s hidle => ?_, fun s f hf hcmd hleft => ?_⟩
  · refine ⟨(s.issue w).withReply .written, _, ?_, State.issue_flight s w, rfl⟩
    rw [← writeCmd_of_idle hidle]
    exact takeTurn_write s .cmd w
  · subst hcmd
    refine ⟨engineTurn_of_rejected hf hleft hr, fun hinflight => ?_⟩
    calc
      s.status.lastop.toNat = (opcodeField f.lat.cmd).toNat := by rw [hinflight.lastop]
      _ = f.lat.cmd.toNat % 16 := toNat_opcodeField _

/-! ### What each command leaves unchanged (R66) -/

/-- Only CONFIG writes the active curve. -/
theorem outcomeOf_cur_ne_none {i : Instr} {f : Flight} {w : Writes} (h : outcomeOf i f = .ok w)
    (hw : w.cur ≠ none) : i = .config := by
  obtain ⟨c, hc⟩ := Option.ne_none_iff_exists'.1 hw
  exact (outcomeOf_cur h hc).1

/-- Only ONCURVE sets BOOL. -/
theorem outcomeOf_bool {i : Instr} {f : Flight} {w : Writes} (h : outcomeOf i f = .ok w) (hw : w.bool = true) :
    i = .onCurve := by
  rcases outcomeOf_eq_ok h with ⟨-, rfl⟩ | ⟨-, -, rfl⟩ | ⟨-, v, rfl⟩ | ⟨hi, -⟩ | ⟨-, P, rfl⟩
  case inr.inr.inr.inl => exact hi
  all_goals cases hw

/-- Only a point command sets INF. -/
theorem outcomeOf_inf {i : Instr} {f : Flight} {w : Writes} (h : outcomeOf i f = .ok w) (hw : w.inf = true) :
    i = .dbl ∨ i = .add ∨ i = .smul := by
  rcases outcomeOf_eq_ok h with ⟨-, rfl⟩ | ⟨-, -, rfl⟩ | ⟨-, v, rfl⟩ | ⟨-, b, rfl⟩ | ⟨hi, -⟩
  case inr.inr.inr.inr => exact hi
  all_goals cases hw

/-- An optional write that is made only if `p` leaves the old value when `p` fails. -/
theorem getD_eq_of_not {α : Type} {o : Option α} {a : α} {p : Prop} (h : o ≠ none → p) (hp : ¬p) : o.getD a = a := by
  by_contra hne
  exact hp (h (ne_none_of_getD_ne hne))

/-- No completion changes a register a command does not write at all. -/
theorem readReg_complete_of_unwritten {r : Reg} (hr : r = .cmd ∨ r = .ctrl ∨ r.StoresWrites) (s : State)
    (o : Except Err Writes) : readReg (s.complete o) r = readReg s r := by
  rcases hr with rfl | rfl | hr
  · rfl
  · obtain ⟨-, -, -, -, -, -, hie, -⟩ := complete_frame s o
    simp only [readReg, State.ctrlWord, hie]
  · exact readReg_complete_of_storesWrites hr s o

/-- Settles O36: a command that answers a next state is the completion of its outcome, so `complete_frame` gives what no
command changes; an error writes no result, and a success only what `outcomeOf_rx` and its like allow. -/
theorem commandFrame : Obligations.CommandFrame := by
  intro i s t h
  obtain ⟨f, -, rfl⟩ := exec_next h
  obtain ⟨-, -, -, -, -, -, -, henv, -, -, hovr, hlastop⟩ := complete_frame s (outcomeOf i f)
  refine ⟨fun r hr => readReg_complete_of_unwritten (by unfold Reg.StoresWrites; tauto) s _, hovr, hlastop, henv, ?_⟩
  cases ho : outcomeOf i f with
  | error e => exact ⟨fun _ => ⟨rfl, rfl⟩, fun _ => rfl, fun _ => rfl, fun _ => nofun, fun _ => nofun⟩
  | ok w =>
    refine ⟨fun hi => ⟨getD_eq_of_not (outcomeOf_rx ho) ?_, getD_eq_of_not (outcomeOf_ry ho) ?_⟩,
      fun hi => getD_eq_of_not (outcomeOf_ry ho) ?_, fun hi => getD_eq_of_not (outcomeOf_cur_ne_none ho) hi,
      fun hi _ => Bool.eq_false_iff.2 (mt (outcomeOf_bool ho) hi),
      fun hi _ => Bool.eq_false_iff.2 (mt (outcomeOf_inf ho) ?_)⟩
    · rcases hi with rfl | rfl | rfl <;> decide
    · rcases hi with rfl | rfl | rfl <;> decide
    · rcases hi with rfl | rfl <;> decide
    · tauto

end Sys2Proof.Machine
end

section
/-! PROOFS of the statements of 40_control.md: issue, the busy interval and its completion step, NOP, CONFIG and the
legal curves (R80-R85, R100, R185, R190, R193). -/

namespace Sys2Proof.Machine

/-! ### Issue (R80, R81) -/

/-- A host write of any word to CMD while BUSY = 0 issues it. -/
theorem takeTurn_cmd_of_idle {s : State} (hidle : s.flight = none) (w : Word) :
    takeTurn (.host (.write 0x00 (lanesOf w))) s = .next ((s.issue w).withReply .written) := by
  rw [← writeCmd_of_idle hidle]
  exact takeTurn_write s .cmd w

/-- OPCODE is the word's low four bits. -/
theorem opcodeField_eq_ofNat (w : Word) : opcodeField w = BitVec.ofNat 4 (w.toNat % 16) := by
  apply BitVec.eq_of_toNat_eq
  rw [toNat_opcodeField, BitVec.toNat_ofNat, Nat.mod_mod]

/-- Settles O11: the write is `State.issue`, which clears DONE, so that IRQ falls. -/
theorem issueLatchesAndClears : Obligations.IssueLatchesAndClears := by
  intro s w hidle
  have hissue := takeTurn_cmd_of_idle hidle w
  refine ⟨{ lat := s.latch w, left := Config.internalSteps s.env.draws w (s.latch w).copies, loop := none },
    ((s.issue w).withReply .written).env, rfl, ?_, fun t ht => ?_⟩
  · rw [hissue, ← opcodeField_eq_ofNat]
    rfl
  · rw [hissue] at ht
    cases ht
    rfl

/-- Settles O12: `State.issue` stores the draw, which is one less than the latency. -/
theorem issueDrawsTheLatency : Obligations.IssueDrawsTheLatency := by
  intro s w hidle
  exact ⟨_, _, takeTurn_cmd_of_idle hidle w, State.issue_flight s w, rfl, rfl, rfl, rfl⟩

/-! ### The completion step runs the decoded command (R82) -/

/-- The completion step of a word that decodes is the command's. -/
theorem engineTurn_of_decoded {s : State} {f : Flight} {i : Instr} (hf : s.flight = some f) (hleft : f.left = 0)
    (hi : decodeWord f.lat.cmd = .ok i) : engineTurn s = exec i s := by
  simp only [engineTurn, hf, hleft, completionStep, hi]

/-- The bytes of a word decode to the word's command, with no byte after them (30_encoding.md R67). -/
theorem decodeBytes_lanesOf (w : Word) : decodeBytes (lanesOf w) = (decodeWord w).map (·, []) := by
  rw [← decodeBytes_lanesOf_append, List.append_nil]

/-- When the bytes of a word decode to a command, the word does. -/
theorem decodeWord_of_decodeBytes_lanesOf {w : Word} {i : Instr} {rest : List Byte}
    (h : decodeBytes (lanesOf w) = .ok (i, rest)) : decodeWord w = .ok i := by
  rw [decodeBytes_lanesOf] at h
  cases hw : decodeWord w with
  | ok j =>
    rw [hw] at h
    cases h
    rfl
  | error r =>
    rw [hw] at h
    cases h

/-- Settles O6, by `engineTurn_of_decoded`. -/
theorem stepRunsDecodedCommand : Obligations.StepRunsDecodedCommand := by
  intro s u f i hturn hf hleft hbytes
  rw [step_of_engine hturn]
  exact engineTurn_of_decoded hf hleft (decodeWord_of_decodeBytes_lanesOf hbytes)

/-- A placed bit pattern that decodes is the command's encoding. -/
theorem eq_encode_of_decodeTableWord {nbits w : Nat} {i : Instr} (h : decodeTableWord nbits w = some i) :
    BitVec.ofNat 64 (w % 2 ^ nbits) = encode i := by
  unfold decodeTableWord at h
  split at h
  · split at h
    · next hbytes =>
      cases h
      exact (decodeWord_eq_ok_iff _ _).1 (decodeWord_of_decodeBytes_lanesOf hbytes)
    · cases h
  · cases h

/-- Issue leaves every register of the window but STATUS (40_control.md R80). -/
theorem readReg_issueWith {r : Reg} (hr : r ≠ .status) (s : State) (left : Nat) (w : Word) :
    readReg (s.issueWith left w) r = readReg s r := by
  cases r with
  | status => exact absurd rfl hr
  | _ => rfl

/-- The engine's turn put before the turns to come is taken by the very next step. -/
theorem step_withAgenda_engine (s : State) : step (s.withAgenda (.engine :: s.env.agenda)) = engineTurn s := by
  have hagenda : (s.withAgenda (.engine :: s.env.agenda)).env.agenda = .engine :: s.env.agenda := rfl
  rw [step_cons hagenda]
  rfl

/-- Settles O7: the placed word is the command's encoding, just issued with no internal step left, and the engine has
the turn. -/
theorem placedCommandRunsNext : Obligations.PlacedCommandRunsNext := by
  intro s i nbits w _ hdecode
  rw [State.withFetchWord, eq_encode_of_decodeTableWord hdecode]
  refine ⟨s.issueWith 0 (encode i), ?_, rfl, rfl, fun r hr => readReg_issueWith hr s 0 (encode i)⟩
  rw [← State.issueWith_env s 0 (encode i), step_withAgenda_engine]
  exact engineTurn_of_decoded (State.issueWith_flight s 0 (encode i)) rfl (decodeWord_encode i)

/-! ### The busy interval (R81, R193) -/

theorem SameToHost.refl (s : State) : SameToHost s s :=
  ⟨fun _ => rfl, rfl⟩

theorem SameToHost.trans {s t u : State} (hst : SameToHost s t) (htu : SameToHost t u) : SameToHost s u :=
  ⟨fun r => (htu.1 r).trans (hst.1 r), htu.2.trans hst.2⟩

/-- With nothing to come from outside, a run of no more steps than are left takes that many internal steps, and the host
sees none of them. -/
theorem run_internalSteps (n : Nat) {s : State} {f : Flight} (hagenda : s.env.agenda = []) (hf : s.flight = some f)
    (hn : n ≤ f.left) :
    ∃ (t : State) (g : Flight), core.run n s = .next t ∧ t.env.agenda = [] ∧ t.flight = some g ∧
      g.left + n = f.left ∧ SameToHost s t := by
  induction n generalizing s f with
  | zero => exact ⟨s, f, rfl, hagenda, hf, rfl, SameToHost.refl s⟩
  | succ n ih =>
    obtain ⟨left, hleft⟩ : ∃ left, f.left = left + 1 := ⟨f.left - 1, by omega⟩
    have hstep : step s = .next (internalStep s f left) := by rw [step_nil hagenda, engineTurn_of_left hf hleft]
    have hn' : n ≤ (f.advance left).left := by
      change n ≤ left
      omega
    obtain ⟨t, g, hrun, hagenda', hg, hgleft, hsame⟩ :=
      ih (s := internalStep s f left) hagenda (internalStep_flight s f left) hn'
    have hgleft : g.left + n = left := hgleft
    exact ⟨t, g, (run_next n hstep).trans hrun, hagenda', hg, by omega,
      (sameToHost_internalStep hf f left).trans hsame⟩

/-- With no internal step left, the engine's step completes the command in flight, whether its word decodes or not. -/
theorem engineTurn_completes {s : State} {f : Flight} (hf : s.flight = some f) (hleft : f.left = 0) :
    ∃ o, engineTurn s = .next (s.complete o) := by
  cases hd : decodeWord f.lat.cmd with
  | ok i => exact ⟨outcomeOf i f, by rw [engineTurn_of_decoded hf hleft hd, exec_of_flight i hf]⟩
  | error r => exact ⟨.error .illegal, engineTurn_of_rejected hf hleft hd⟩

/-- Settles O57, by `run_internalSteps` up to the last internal step and `engineTurn_completes` after it. -/
theorem completesInItsLatency : Obligations.CompletesInItsLatency := by
  intro s f hagenda hf
  constructor
  · intro n hn
    obtain ⟨t, g, hrun, -, hg, -, hsame⟩ := run_internalSteps n hagenda hf hn
    exact ⟨t, hrun, by rw [busy_eq_isSome, hg, Option.isSome_some], hsame⟩
  · obtain ⟨t, g, hrun, hagenda', hg, hgleft, -⟩ := run_internalSteps f.left hagenda hf le_rfl
    obtain ⟨o, hcomplete⟩ := engineTurn_completes hg (by omega)
    refine ⟨t.complete o, ?_, busy_complete t o, done_complete t o⟩
    rw [run_add f.left 1 hrun]
    exact run_next 0 ((step_nil hagenda').trans hcomplete)

/-! ### The legal curves (R85) -/

/-- The clauses of `cfg_valid` for three registers read as unsigned (30_encoding.md R64). -/
theorem cfgValid_params_iff (c : Curve) :
    cfgValid c.params = true ↔
      3 ≤ c.p.toNat ∧ c.p.toNat ≤ 2 ^ 63 - 1 ∧ c.p.toNat % 2 = 1 ∧ c.a.toNat < c.p.toNat ∧ 1 ≤ c.b.toNat ∧
        c.b.toNat < c.p.toNat := by
  rw [cfgValid_iff]
  simp only [Curve.params, uint64]
  omega

/-- Settles O16, by `cfgValid_iff` and `cfgValid_params_iff`; the reset state meets the invariant. -/
theorem legalCurves : Obligations.LegalCurves :=
  ⟨cfgValid_iff, fun _ => rfl, cfgValid_params_iff, inv_reset.curve⟩

/-! ### NOP and CONFIG (R83, R84) -/

/-- Settles O14: NOP completes with no writes. -/
theorem nopResult : Obligations.NopResult :=
  ⟨rfl, fun s _ hf => ⟨exec_of_flight .nop hf, irq_complete s nopOutcome⟩⟩

/-- CONFIG writes the latched staging curve when it is legal. -/
theorem configOutcome_of_valid {l : Latched} (h : cfgValid l.cfg.params = true) :
    configOutcome l = .ok { cur := some l.cfg } :=
  if_pos h

/-- CONFIG reports CONFIG when the latched staging curve is not legal (60_exceptions.md R157). -/
theorem configOutcome_of_not_valid {l : Latched} (h : ¬cfgValid l.cfg.params = true) :
    configOutcome l = .error .config :=
  if_neg h

/-- Settles O15: CONFIG completes with its outcome, and `cfgValid_params_iff` says which of the two that is. -/
theorem configResult : Obligations.ConfigResult := by
  refine ⟨rfl, ?_⟩
  rintro s f p a b hf rfl rfl rfl
  rw [exec_of_flight .config hf, outcomeOf, ← cfgValid_params_iff]
  refine ⟨fun h => ?_, fun h => ?_⟩
  · rw [configOutcome_of_valid h]
    rfl
  · rw [configOutcome_of_not_valid h]
    rfl

/-! ### The sentinel and the legal curves (R100, R185) -/

/-- The membership test accepts the literal sentinel and the pairs on the curve (42_point.md R100). -/
theorem ptOnCurve_iff (c : Params) (P : Point) : ptOnCurve c P = true ↔ P = Point.inf ∨ P.OnCurve c := by
  rw [← isInf_iff]
  by_cases hinf : P.isInf = true
  · rw [ptOnCurve, if_pos hinf]
    exact iff_of_true rfl (.inl hinf)
  · rw [ptOnCurve, if_neg hinf, or_iff_right hinf, decide_eq_true_eq]
    rfl

/-- A legal curve has `0 < b < p`, so its equation fails at the sentinel (70_reset_and_hazards.md R185). -/
theorem not_onCurve_inf {c : Params} (hc : cfgValid c = true) : ¬Point.inf.OnCurve c := by
  obtain ⟨-, -, -, -, -, hb0, hb⟩ := (cfgValid_iff c).1 hc
  have hbmod : c.b % c.p = c.b := Int.emod_eq_of_lt (by omega) hb
  intro h
  have h0 : 0 = c.b % c.p := by simpa [Point.OnCurve, Point.inf] using h
  omega

/-- Settles O30, by `not_onCurve_inf` and `ptOnCurve_iff`. -/
theorem sentinelIsOffEveryLegalCurve : Obligations.SentinelIsOffEveryLegalCurve := by
  refine ⟨fun c hc => ⟨not_onCurve_inf hc, (ptOnCurve_iff c _).2 (.inl rfl)⟩, fun c x y => ?_⟩
  rw [ptOnCurve_iff, Point.inf, Point.mk.injEq, Point.OnCurve]

end Sys2Proof.Machine
end

section
/-! PROOFS of the statements of 41_field.md: RED and INV, and what INV's result is under a prime modulus (R90-R94). -/

namespace Sys2Proof.Machine

/-! ### The operand and the result of a field command -/

/-- The latched X1 as RED and INV use it: signed, and reduced by the latched modulus (30_encoding.md R64, R65). -/
theorem reduce_fieldOperand (l : Latched) : reduce l.params l.fieldOperand = l.x1.toInt % l.cur.p.toNat := by
  rw [Latched.fieldOperand, sint64_eq_toInt]
  rfl

/-- A residue under any modulus a register can hold, legal or not, survives `enc64`. -/
theorem toNat_enc64_residue {p : Word} (hp : 0 < (p.toNat : Int)) (x : Int) :
    ((enc64 (x % p.toNat)).toNat : Int) = x % p.toNat := by
  have h0 : 0 ≤ x % p.toNat := mod_nonneg x hp
  have hlt : x % p.toNat < p.toNat := mod_lt x hp
  have hword : (p.toNat : Int) < 2 ^ 64 := uint64_lt p
  rw [enc64, BitVec.toNat_ofInt]
  omega

/-- What a field command that succeeds leaves: RX is written, and RY and the curve are kept (30_encoding.md R66). -/
theorem complete_ok_rx_only (s : State) (r : Word) :
    s.complete (.ok { rx := some r }) = s.succeededWith r s.ry s.cur false false :=
  rfl

/-! ### RED and INV (R90, R92, R94) -/

/-- Settles O17: RED writes the encoded residue, and `enc64` loses nothing of it. -/
theorem redResult : Obligations.RedResult := by
  refine ⟨rfl, ?_⟩
  rintro s f x p hf rfl rfl hp
  refine ⟨_, toNat_enc64_residue hp _, ?_⟩
  rw [exec_of_flight .red hf, outcomeOf, redOutcome, reduce_fieldOperand, complete_ok_rx_only]

/-- INV reports DIV_ZERO on the multiples of the modulus (41_field.md R92). -/
theorem invOutcome_of_dvd {l : Latched} (h : l.x1.toInt % l.cur.p.toNat = 0) : invOutcome l = .error .divZero := by
  rw [invOutcome, (feInv_error_iff _ _).2 ((reduce_fieldOperand l).trans h)]

/-- Otherwise INV writes the power, whether or not the modulus is prime (41_field.md R92, R94). -/
theorem invOutcome_of_not_dvd {l : Latched} (h : l.x1.toInt % l.cur.p.toNat ≠ 0) :
    invOutcome l = .ok { rx := some (enc64
      ((l.x1.toInt % l.cur.p.toNat) ^ ((l.cur.p.toNat : Int) - 2).toNat % l.cur.p.toNat)) } := by
  rw [← reduce_fieldOperand] at h ⊢
  rw [invOutcome, feInv_ok _ h]
  rfl

/-- Settles O19: the two clauses are the two outcomes of INV. -/
theorem invResult : Obligations.InvResult := by
  refine ⟨rfl, ?_⟩
  rintro s f x p hf rfl rfl hp
  rw [exec_of_flight .inv hf, outcomeOf]
  refine ⟨fun h => ?_, fun h => ⟨_, toNat_enc64_residue hp _, ?_⟩⟩
  · rw [invOutcome_of_dvd h]
    rfl
  · rw [invOutcome_of_not_dvd h, complete_ok_rx_only]

/-! ### INV under a prime modulus (R93) -/

/-- Fermat's little theorem, as R93 uses it: the power `y^(p-2)` is an inverse of `y` under a prime modulus. -/
theorem mul_pow_sub_two_emod {p : Nat} (hp : p.Prime) {y : Int} (hy : ¬(p : Int) ∣ y) :
    y * (y ^ (p - 2) % p) % p = 1 := by
  have hcoprime : IsCoprime y (p : Int) := ((Nat.prime_iff_prime_int.1 hp).coprime_iff_not_dvd.2 hy).symm
  have hexp : p - 2 + 1 = p - 1 := by
    have := hp.two_le
    omega
  calc
    y * (y ^ (p - 2) % p) % p = y * y ^ (p - 2) % p := (Int.mod_modEq _ _).mul_left y
    _ = y ^ (p - 1) % p := by rw [← pow_succ', hexp]
    _ = 1 % p := Int.ModEq.pow_card_sub_one_eq_one hp hcoprime
    _ = 1 := Int.emod_eq_of_lt one_pos.le (by exact_mod_cast hp.one_lt)

/-- Two residues that are both inverses of `y` are equal, whatever the modulus: `q = q(yr) = (yq)r = r` modulo `p`. -/
theorem residue_inverse_unique {p y q r : Int} (hq0 : 0 ≤ q) (hq : q < p) (hr0 : 0 ≤ r) (hr : r < p)
    (hyq : y * q % p = 1) (hyr : y * r % p = 1) : q = r :=
  calc
    q = q * (y * r % p) % p := by rw [hyr, mul_one, Int.emod_eq_of_lt hq0 hq]
    _ = q * (y * r) % p := (Int.mod_modEq _ _).mul_left q
    _ = y * q * r % p := by rw [mul_left_comm, mul_assoc]
    _ = y * q % p * r % p := ((Int.mod_modEq _ _).mul_right r).symm
    _ = r := by rw [hyq, one_mul, Int.emod_eq_of_lt hr0 hr]

/-- Settles O20: by O19 the result is the power, which Fermat's little theorem makes an inverse. -/
theorem invIsTheInverse : Obligations.InvIsTheInverse := by
  rintro s f x p hf hx hp hprime hne
  have hpos : (0 : Int) < p := by exact_mod_cast hprime.pos
  obtain ⟨r, hr, hexec⟩ := (invResult.2 s f x p hf hx (congrArg _ hp) hpos).2 hne
  rw [show ((p : Int) - 2).toNat = p - 2 by omega] at hr
  have hlt : (r.toNat : Int) < p := hr ▸ mod_lt _ hpos
  have hndvd : ¬(p : Int) ∣ x % p := fun h => hne ((mod_mod x p).symm.trans (Int.emod_eq_zero_of_dvd h))
  have hinv : x % p * r.toNat % p = 1 := hr ▸ mul_pow_sub_two_emod hprime hndvd
  exact ⟨r, hexec, by exact_mod_cast hlt, hinv, fun q hq0 hq hyq =>
    residue_inverse_unique hq0 hq (Int.natCast_nonneg _) hlt hyq hinv⟩

end Sys2Proof.Machine
end

section
/-! PROOFS of the statements of 42_point.md: what the point functions answer on canonical points, what ONCURVE, DBL and
ADD write, and that addition commutes under a prime modulus (R100-R109). -/

namespace Sys2Proof.Machine

variable {c : Params} {P Q : Point} {s : State} {f : Flight}

/-! ### The slope of a line (R102, R104) -/

/-- The slope through a denominator that is a multiple of the modulus. -/
theorem lineSlope_error (num : Int) {den : Int} (h : reduce c den = 0) : lineSlope c num den = .error .divZero := by
  simp only [lineSlope, (feInv_error_iff c den).2 h]

/-! ### Doubling (R102) -/

/-- The tangent is vertical where `y = 0`, the sentinel among these points. -/
theorem ptDouble_of_y_eq_zero (hy : P.y = 0) : ptDouble c P = .ok Point.inf := by
  rw [ptDouble, if_pos hy, ite_self]

/-- Elsewhere the result is the third point of the tangent, if it has a slope. -/
theorem ptDouble_of_y_ne_zero (hy : P.y ≠ 0) :
    ptDouble c P = (lineSlope c (3 * P.x * P.x + c.a) (2 * P.y)).map (chord c · P.x P.y P.x) := by
  have hinf : ¬P.isInf = true := by simp [Point.isInf, hy]
  rw [ptDouble, if_neg hinf, if_neg hy]
  cases lineSlope c (3 * P.x * P.x + c.a) (2 * P.y) <;> rfl

/-- Settles O59: the three clauses are those of `ptDouble` and of `lineSlope`. -/
theorem pointDoubleFormula : Obligations.PointDoubleFormula := by
  intro c x y _
  refine ⟨fun hy => ptDouble_of_y_eq_zero hy, fun hy hdiv => ?_, fun hy hdiv => ?_⟩
  · rw [ptDouble_of_y_ne_zero hy, lineSlope_error _ hdiv]
    rfl
  · rintro lam x3 y3 rfl rfl rfl
    rw [ptDouble_of_y_ne_zero hy, lineSlope_ok _ hdiv, two_mul x, ← sub_sub]
    rfl

/-! ### Addition (R104) -/

theorem ptAdd_inf_left (hP : P = Point.inf) : ptAdd c P Q = .ok Q :=
  if_pos ((isInf_iff P).2 hP)

theorem ptAdd_inf_right (hQ : Q = Point.inf) : ptAdd c P Q = .ok P := by
  by_cases hP : P = Point.inf
  · rw [ptAdd_inf_left hP, hP, hQ]
  · rw [ptAdd, if_neg (mt (isInf_iff P).1 hP), if_pos ((isInf_iff Q).2 hQ)]

/-- Equal points are doubled. -/
theorem ptAdd_self (hP : P ≠ Point.inf) : ptAdd c P P = ptDouble c P := by
  have hinf := mt (isInf_iff P).1 hP
  rw [ptAdd, if_neg hinf, if_neg hinf, if_pos ⟨rfl, rfl⟩]

/-- Distinct points on a vertical line add to infinity. -/
theorem ptAdd_vertical (hP : P ≠ Point.inf) (hQ : Q ≠ Point.inf) (hx : P.x = Q.x) (hy : P.y ≠ Q.y) :
    ptAdd c P Q = .ok Point.inf := by
  rw [ptAdd, if_neg (mt (isInf_iff P).1 hP), if_neg (mt (isInf_iff Q).1 hQ), if_neg (fun h => hy h.2), if_pos hx]

/-- Points on any other line add to the line's third point, if it has a slope. -/
theorem ptAdd_of_x_ne (hP : P ≠ Point.inf) (hQ : Q ≠ Point.inf) (hx : P.x ≠ Q.x) :
    ptAdd c P Q = (lineSlope c (Q.y - P.y) (Q.x - P.x)).map (chord c · P.x P.y Q.x) := by
  rw [ptAdd, if_neg (mt (isInf_iff P).1 hP), if_neg (mt (isInf_iff Q).1 hQ), if_neg (fun h => hx h.1), if_neg hx]
  cases lineSlope c (Q.y - P.y) (Q.x - P.x) <;> rfl

theorem mk_eq_inf_iff (x y : Int) : (⟨x, y⟩ : Point) = Point.inf ↔ x = 0 ∧ y = 0 :=
  iff_of_eq (Point.mk.injEq x y 0 0)

/-- Settles O60: the clauses are those of `ptAdd`, and the chord has a slope because its ends' abscissas are distinct
residues. -/
theorem pointAddFormula : Obligations.PointAddFormula := by
  rintro c x1 y1 x2 y2 ⟨⟨hx10, hx1, -, -⟩, hx20, hx2, -, -⟩
  simp only [← mk_eq_inf_iff]
  refine ⟨ptAdd_inf_left, ptAdd_inf_right, fun hP hQ => ⟨?_, fun hx hy => ptAdd_vertical hP hQ hx hy, fun hx => ?_⟩⟩
  · rintro rfl rfl
    exact ptAdd_self hP
  · rintro lam x3 y3 rfl rfl rfl
    rw [ptAdd_of_x_ne hP hQ hx, lineSlope_ok _ (reduce_sub_ne_zero hx10 hx1 hx20 hx2 hx)]
    rfl

/-! ### The operands and the result of a point command -/

theorem point1_eq (l : Latched) : l.point1 = ⟨l.x1.toInt, l.y1.toInt⟩ := by
  rw [Latched.point1, sint64_eq_toInt, sint64_eq_toInt]

theorem point2_eq (l : Latched) : l.point2 = ⟨l.x2.toInt, l.y2.toInt⟩ := by
  rw [Latched.point2, sint64_eq_toInt, sint64_eq_toInt]

theorem canon1_iff (l : Latched) : l.canon1 = true ↔
    0 ≤ l.x1.toInt ∧ l.x1.toInt < l.cur.p.toNat ∧ 0 ≤ l.y1.toInt ∧ l.y1.toInt < l.cur.p.toNat := by
  rw [Latched.canon1, Bool.and_eq_true, canon_iff, canon_iff, sint64_eq_toInt, sint64_eq_toInt, and_assoc]
  rfl

theorem canon2_iff (l : Latched) : l.canon2 = true ↔
    0 ≤ l.x2.toInt ∧ l.x2.toInt < l.cur.p.toNat ∧ 0 ≤ l.y2.toInt ∧ l.y2.toInt < l.cur.p.toNat := by
  rw [Latched.canon2, Bool.and_eq_true, canon_iff, canon_iff, sint64_eq_toInt, sint64_eq_toInt, and_assoc]
  rfl

/-- A point command that succeeds leaves its point in RX and RY, and in INF whether that is the sentinel (R108). -/
theorem complete_pointOutcome_ok (s : State) (P : Point) :
    s.complete (pointOutcome (.ok P)) =
      s.succeededWith (enc64 P.x) (enc64 P.y) s.cur false (decide (P.x = 0 ∧ P.y = 0)) := by
  rw [Bool.decide_and]
  rfl

/-- A point of residues is left in RX and RY as it is, under any modulus a register can hold. -/
theorem exists_complete_residues (s : State) {p : Word} (hp : 0 < (p.toNat : Int)) {x y x3 y3 : Int}
    (hx : x3 = x % p.toNat) (hy : y3 = y % p.toNat) :
    ∃ rx ry : Word, (rx.toNat : Int) = x3 ∧ (ry.toNat : Int) = y3 ∧
      s.complete (pointOutcome (.ok ⟨x3, y3⟩)) = s.succeededWith rx ry s.cur false (decide (x3 = 0 ∧ y3 = 0)) := by
  subst hx hy
  exact ⟨_, _, toNat_enc64_residue hp x, toNat_enc64_residue hp y, complete_pointOutcome_ok s _⟩

/-- A point read from two registers is left in RX and RY as those registers hold it. -/
theorem complete_pointOutcome_toInt (s : State) (x y : Word) :
    s.complete (pointOutcome (.ok ⟨x.toInt, y.toInt⟩)) =
      s.succeededWith x y s.cur false (decide (x.toInt = 0 ∧ y.toInt = 0)) := by
  rw [complete_pointOutcome_ok, enc64, enc64, BitVec.ofInt_toInt, BitVec.ofInt_toInt]

/-- A point command reports RANGE when a coordinate of its first point is not canonical, whatever else it has (R106). -/
theorem exec_of_not_canon1 {i : Instr} (hi : i = .dbl ∨ i = .add ∨ i = .smul) (hf : s.flight = some f)
    (h : ¬f.lat.canon1 = true) : exec i s = .next (s.failedWith .range) := by
  have hout : outcomeOf i f = .error .range := by
    rcases outcomeOf_point hi f with ho | ⟨o, hcall, -⟩
    · exact ho
    · cases hcall <;> contradiction
  rw [exec_of_flight i hf, hout]
  rfl

/-- ADD reports RANGE when a coordinate of its second point is not canonical (R106). -/
theorem exec_add_of_not_canon2 (hf : s.flight = some f) (h : ¬f.lat.canon2 = true) :
    exec .add s = .next (s.failedWith .range) := by
  have hout : addOutcome f.lat = .error .range := if_neg (by simp [h])
  rw [exec_of_flight .add hf, outcomeOf, hout]
  rfl

/-- DBL of canonical coordinates completes with `pt_double`'s answer (R103). -/
theorem exec_dbl_of_canon (hf : s.flight = some f) (h : f.lat.canon1 = true) :
    exec .dbl s = .next (s.complete (pointOutcome (ptDouble f.lat.params ⟨f.lat.x1.toInt, f.lat.y1.toInt⟩))) := by
  have hout : dblOutcome f.lat = pointOutcome (ptDouble f.lat.params f.lat.point1) := if_pos h
  rw [exec_of_flight .dbl hf, outcomeOf, hout, point1_eq]

/-- ADD of canonical coordinates completes with `pt_add`'s answer (R105). -/
theorem exec_add_of_canon (hf : s.flight = some f) (h1 : f.lat.canon1 = true) (h2 : f.lat.canon2 = true) :
    exec .add s = .next (s.complete (pointOutcome
      (ptAdd f.lat.params ⟨f.lat.x1.toInt, f.lat.y1.toInt⟩ ⟨f.lat.x2.toInt, f.lat.y2.toInt⟩))) := by
  have hout : addOutcome f.lat = pointOutcome (ptAdd f.lat.params f.lat.point1 f.lat.point2) :=
    if_pos (Bool.and_eq_true_iff.2 ⟨h1, h2⟩)
  rw [exec_of_flight .add hf, outcomeOf, hout, point1_eq, point2_eq]

/-! ### ONCURVE, DBL and ADD (R101, R103, R105) -/

/-- The membership test as one decision (R100). -/
theorem ptOnCurve_eq_decide (c : Params) (x y : Int) : ptOnCurve c ⟨x, y⟩ =
    decide ((x = 0 ∧ y = 0) ∨ (y * y) % c.p = (x * x * x + c.a * x + c.b) % c.p) :=
  Bool.eq_iff_iff.2 ((sentinelIsOffEveryLegalCurve.2 c x y).trans decide_eq_true_iff.symm)

/-- Settles O21: ONCURVE completes with the membership test on X1 and Y1, read as signed, and writes nothing else. -/
theorem onCurveResult : Obligations.OnCurveResult := by
  refine ⟨rfl, ?_⟩
  rintro s f x y p a b hf rfl rfl rfl rfl rfl
  rw [exec_of_flight .onCurve hf, outcomeOf, onCurveOutcome, point1_eq, ptOnCurve_eq_decide]
  rfl

/-- Settles O22: RANGE first, and then what `pointDoubleFormula` says of `pt_double`. -/
theorem dblResult : Obligations.DblResult := by
  refine ⟨rfl, ?_⟩
  rintro s f x y p a hf rfl rfl rfl rfl
  refine ⟨fun h => exec_of_not_canon1 (.inl rfl) hf (mt (canon1_iff _).1 h), fun h => ?_⟩
  obtain ⟨hinf, hdiv, htangent⟩ := pointDoubleFormula f.lat.params _ _ h
  rw [exec_dbl_of_canon hf ((canon1_iff _).2 h)]
  refine ⟨fun hy => ?_, fun hy h0 => ?_, fun hy h0 lam x3 y3 hlam hx3 hy3 => ?_⟩
  · rw [hinf hy]
    rfl
  · rw [hdiv hy h0]
    rfl
  · obtain ⟨rx, ry, hrx, hry, hs⟩ := exists_complete_residues s (h.1.trans_lt h.2.1) hx3 hy3
    rw [htangent hy h0 lam x3 y3 hlam hx3 hy3, hs]
    exact ⟨rx, ry, hrx, hry, rfl⟩

/-- Settles O23: RANGE first, and then what `pointAddFormula` says of `pt_add`. -/
theorem addResult : Obligations.AddResult := by
  refine ⟨rfl, ?_⟩
  rintro s f x1 y1 x2 y2 p hf rfl rfl rfl rfl rfl
  simp only [← canon1_iff, ← canon2_iff]
  refine ⟨fun h => ?_, fun ⟨h1, h2⟩ => ?_, fun i hi h => exec_of_not_canon1 (hi.imp_right .inr) hf h⟩
  · rcases not_and_or.1 h with h1 | h2
    · exact exec_of_not_canon1 (.inr (.inl rfl)) hf h1
    · exact exec_add_of_not_canon2 hf h2
  · have hcanon := (canon1_iff f.lat).1 h1
    obtain ⟨hleft, hright, hother⟩ := pointAddFormula f.lat.params _ _ _ _ ⟨hcanon, (canon2_iff f.lat).1 h2⟩
    rw [exec_add_of_canon hf h1 h2]
    refine ⟨fun hP => ?_, fun hQ => ?_, fun hP hQ => ?_⟩
    · rw [hleft hP, complete_pointOutcome_toInt]
    · rw [hright hQ, complete_pointOutcome_toInt]
    · obtain ⟨hself, hvertical, hchord⟩ := hother hP hQ
      refine ⟨fun hx hy => ?_, fun hx hy => ?_, fun hx lam x3 y3 hlam hx3 hy3 => ?_⟩
      · rw [hself hx hy, exec_dbl_of_canon hf h1]
      · rw [hvertical hx hy]
        rfl
      · obtain ⟨rx, ry, hrx, hry, hs⟩ := exists_complete_residues s (hcanon.1.trans_lt hcanon.2.1) hx3 hy3
        rw [hchord hx lam x3 y3 hlam hx3 hy3, hs]
        exact ⟨rx, ry, hrx, hry, rfl⟩

/-! ### Canonical results (R108, R109) -/

/-- Settles O28: a point command that succeeds writes the canonical point its point function answers. -/
theorem pointResultsAreCanonical : Obligations.PointResultsAreCanonical := by
  intro i s t f hi hf hl hc hexec herr
  rw [exec_of_flight i hf] at hexec
  obtain rfl := Host.Outcome.next.inj hexec
  rcases outcomeOf_point hi f with ho | ⟨o, hcall, ho⟩ <;> rw [ho] at herr ⊢
  · cases herr
  · obtain ⟨P, rfl, hx0, hx, hy0, hy⟩ := hcall.canonical hc hl
    obtain ⟨-, hmax, -⟩ := (cfgValid_iff f.lat.params).1 hc
    have hx63 : P.x < 2 ^ 63 := by omega
    have hy63 : P.y < 2 ^ 63 := by omega
    rw [complete_pointOutcome_ok]
    refine ⟨?_, ?_, ?_⟩
    · exact Int.ofNat_lt.1 ((toNat_enc64 hx0 hx63).trans_lt hx)
    · exact Int.ofNat_lt.1 ((toNat_enc64 hy0 hy63).trans_lt hy)
    · exact decide_eq_true_iff.trans (and_congr (enc64_eq_zero hx0 hx63) (enc64_eq_zero hy0 hy63)).symm

/-! ### Addition in the other order (R105) -/

/-- The slope is the quotient's power form of the numerator and denominator as they are, unreduced. -/
theorem lineSlope_eq_emod (num : Int) {den : Int} (h : reduce c den ≠ 0) :
    lineSlope c num den = .ok (num * den ^ (c.p - 2).toNat % c.p) := by
  have hinv : (den % c.p) ^ (c.p - 2).toNat % c.p ≡ den ^ (c.p - 2).toNat [ZMOD c.p] :=
    (Int.mod_modEq _ _).trans ((Int.mod_modEq den c.p).pow _)
  have hslope := (Int.mod_modEq num c.p).mul hinv
  rw [lineSlope_ok num h]
  exact congrArg _ hslope

/-- Under an odd modulus the exponent `p - 2` is odd, so that both signs cancel: a line has one slope, whichever of its
two points is named first. -/
theorem lineSlope_neg (hc : cfgValid c = true) (num den : Int) :
    lineSlope c (-num) (-den) = lineSlope c num den := by
  obtain ⟨hmin, -, hpodd, -⟩ := (cfgValid_iff c).1 hc
  have hodd : Odd (c.p - 2).toNat := Nat.odd_iff.2 (by omega)
  have hzero : reduce c (-den) = 0 ↔ reduce c den = 0 := by
    simp only [reduce, mod, ← Int.dvd_iff_emod_eq_zero, dvd_neg]
  by_cases h : reduce c den = 0
  · rw [lineSlope_error _ h, lineSlope_error _ (hzero.2 h)]
  · rw [lineSlope_eq_emod _ h, lineSlope_eq_emod _ (mt hzero.1 h), hodd.neg_pow, neg_mul_neg]

/-- Under a prime modulus the slope is the quotient: times the denominator it gives the numerator (R93). -/
theorem lineSlope_mul_den {p : Nat} (hp : c.p = p) (hprime : p.Prime) {num den lam : Int}
    (hlam : lineSlope c num den = .ok lam) : lam * den ≡ num [ZMOD c.p] := by
  have hden : reduce c den ≠ 0 := by
    intro h
    rw [lineSlope_error num h] at hlam
    cases hlam
  rw [lineSlope_eq_emod num hden] at hlam
  cases hlam
  have hndvd : ¬(p : Int) ∣ den := fun h => hden (Int.emod_eq_zero_of_dvd (hp ▸ h))
  have hinv : den * den ^ (c.p - 2).toNat ≡ 1 [ZMOD c.p] := by
    rw [hp, show ((p : Int) - 2).toNat = p - 2 by omega]
    calc
      den * den ^ (p - 2) ≡ den * (den ^ (p - 2) % p) [ZMOD p] := (Int.mod_modEq _ _).symm.mul_left den
      _ ≡ den * (den ^ (p - 2) % p) % p [ZMOD p] := (Int.mod_modEq _ _).symm
      _ = 1 := mul_pow_sub_two_emod hprime hndvd
  calc
    num * den ^ (c.p - 2).toNat % c.p * den ≡ num * den ^ (c.p - 2).toNat * den [ZMOD c.p] :=
      (Int.mod_modEq _ _).mul_right den
    _ = num * (den * den ^ (c.p - 2).toNat) := by ring
    _ ≡ num * 1 [ZMOD c.p] := hinv.mul_left num
    _ = num := mul_one num

/-- The third point of a line is the same from either of the two points the line goes through. -/
theorem chord_swap {lam x1 y1 x2 y2 : Int} (hline : lam * (x2 - x1) ≡ y2 - y1 [ZMOD c.p]) :
    chord c lam x1 y1 x2 = chord c lam x2 y2 x1 := by
  have hx3 : lam * lam - x2 - x1 = lam * lam - x1 - x2 := sub_right_comm _ _ _
  have hy3 (x3 : Int) : lam * (x1 - x3) - y1 ≡ lam * (x2 - x3) - y2 [ZMOD c.p] :=
    calc
      lam * (x1 - x3) - y1 = lam * (x2 - x3) - y1 - lam * (x2 - x1) := by ring
      _ ≡ lam * (x2 - x3) - y1 - (y2 - y1) [ZMOD c.p] := hline.sub_left _
      _ = lam * (x2 - x3) - y2 := by ring
  simp only [chord, hx3]
  exact congrArg _ (hy3 _)

/-- Settles O31: a sentinel operand, equal points and a vertical line treat both operands alike, and elsewhere both orders
find the same slope and the same third point. -/
theorem addCommutes : Obligations.AddCommutes := by
  intro c p P Q hc hp hprime hP hQ
  by_cases hPinf : P = Point.inf
  · rw [ptAdd_inf_left hPinf, ptAdd_inf_right hPinf]
  by_cases hQinf : Q = Point.inf
  · rw [ptAdd_inf_right hQinf, ptAdd_inf_left hQinf]
  by_cases hx : P.x = Q.x
  · by_cases hy : P.y = Q.y
    · obtain ⟨x, y⟩ := P
      obtain rfl : x = Q.x := hx
      obtain rfl : y = Q.y := hy
      rfl
    · rw [ptAdd_vertical hPinf hQinf hx hy, ptAdd_vertical hQinf hPinf hx.symm (Ne.symm hy)]
  · rw [ptAdd_of_x_ne hPinf hQinf hx, ptAdd_of_x_ne hQinf hPinf (Ne.symm hx), ← neg_sub Q.y, ← neg_sub Q.x,
      lineSlope_neg hc]
    cases hlam : lineSlope c (Q.y - P.y) (Q.x - P.x) with
    | error e => rfl
    | ok lam => exact congrArg _ (chord_swap (lineSlope_mul_den hp hprime hlam))

end Sys2Proof.Machine
end

section
/-! PROOFS of the statements of 43_scalar.md, the loop: one more bit of the scalar, leading zeros, the sequence of
operations, and what SMUL writes (R130-R133). -/

namespace Sys2Proof.Machine

variable {s : State} {f : Flight}

/-! ### One iteration (R130) -/

/-- A 0 bit doubles the accumulator. -/
theorem smulIter_false (c : Params) (P acc : Point) : smulIter c P acc false = ptDouble c acc := by
  rw [smulIter]
  cases ptDouble c acc <;> rfl

/-- A 1 bit doubles the accumulator and adds the point to that. -/
theorem smulIter_true (c : Params) (P acc : Point) :
    smulIter c P acc true = (ptDouble c acc).bind (PointOp.addBase.apply c P ·) := by
  rw [smulIter]
  cases ptDouble c acc <;> rfl

/-- The addition of the point, by the literal test of the special case (R130). -/
theorem apply_addBase (c : Params) (P d : Point) :
    PointOp.addBase.apply c P d = if d.x = 0 ∧ d.y = 0 then .ok P else ptAdd c d P := by
  simp only [PointOp.apply, Point.isInf, Bool.and_eq_true, decide_eq_true_eq]

/-- The special case of the loop is what `pt_add` answers too (R132). -/
theorem apply_addBase_eq_ptAdd (c : Params) (P d : Point) : PointOp.addBase.apply c P d = ptAdd c d P := by
  rw [PointOp.apply]
  split
  · next hinf => rw [ptAdd_inf_left ((isInf_iff d).1 hinf)]
  · rfl

/-- A loop with bits left is an iteration and the rest of the loop. -/
theorem smulLoop_succ (c : Params) (P : Point) (k : Nat) (acc : Point) (i : Nat) :
    smulLoop c P k acc (i + 1) = (smulIter c P acc (k.testBit i)).bind (smulLoop c P k · i) := by
  rw [smulLoop]
  cases smulIter c P acc (k.testBit i) <;> rfl

/-! ### One more bit of the scalar (R130) -/

/-- A bit appended to the scalar is one more iteration at the end of the loop. -/
theorem smulLoop_bit (c : Params) (P : Point) (k : Nat) (bit : Bool) (acc : Point) (i : Nat) :
    smulLoop c P (k.bit bit) acc (i + 1) = (smulLoop c P k acc i).bind (smulIter c P · bit) := by
  induction i generalizing acc with
  | zero =>
    rw [smulLoop_succ, Nat.testBit_bit_zero]
    change (smulIter c P acc bit).bind .ok = smulIter c P acc bit
    cases smulIter c P acc bit <;> rfl
  | succ i ih =>
    rw [smulLoop_succ, smulLoop_succ, Nat.testBit_bit_succ]
    cases smulIter c P acc (k.testBit i) with
    | error e => rfl
    | ok acc' => exact ih acc'

/-- A positive scalar has a leading bit. -/
theorem bitLength_pos {k : Nat} (hk : 1 ≤ k) : 1 ≤ bitLength k := by
  rw [bitLength, if_neg (by omega)]
  exact Nat.le_add_left 1 _

/-- A bit appended to a positive scalar adds 1 to its length. -/
theorem bitLength_bit {k : Nat} (hk : 1 ≤ k) (bit : Bool) : bitLength (k.bit bit) = bitLength k + 1 := by
  obtain ⟨hlow, hhigh⟩ := bitLength_spec (Nat.ne_of_gt hk)
  have hpow : 2 ^ bitLength k = 2 * 2 ^ (bitLength k - 1) := by
    rw [← pow_succ', Nat.sub_add_cancel (bitLength_pos hk)]
  have hbit := Bool.toNat_lt bit
  rw [Nat.bit_val]
  exact bitLength_eq (Nat.le_add_left 1 _) (by rw [Nat.add_sub_cancel]; omega) (by rw [pow_succ]; omega)

/-- A bit appended to a positive scalar is one more iteration of `pt_smul`. -/
theorem ptSmul_bit {k : Nat} (hk : 1 ≤ k) (c : Params) (P : Point) (bit : Bool) :
    ptSmul c P (k.bit bit) = (ptSmul c P k).bind (smulIter c P · bit) := by
  have hbit : 1 ≤ k.bit bit := by
    rw [Nat.bit_val]
    omega
  have hlen : bitLength (k.bit bit) - 1 = bitLength k - 1 + 1 := by
    rw [bitLength_bit hk, Nat.add_sub_cancel, Nat.sub_add_cancel (bitLength_pos hk)]
  rw [ptSmul_of_pos hbit, ptSmul_of_pos hk, hlen, smulLoop_bit]

/-- Settles O25: one more bit is one more iteration, which is a doubling and, for a 1 bit, an addition. -/
theorem smulIsDoubleAndAdd : Obligations.SmulIsDoubleAndAdd := by
  refine fun c P => ⟨rfl, rfl, fun k hk => ?_⟩
  have heven := ptSmul_bit hk c P false
  have hodd := ptSmul_bit hk c P true
  rw [Nat.bit_false_apply] at heven
  rw [Nat.bit_true_apply] at hodd
  rw [heven, hodd]
  refine ⟨fun e he => ?_, fun acc hacc => ?_⟩
  · rw [he]
    exact ⟨rfl, rfl⟩
  · rw [hacc]
    refine ⟨smulIter_false c P acc, fun e he => ?_, fun d hd => ?_⟩
    · exact (smulIter_true c P acc).trans (congrArg (Except.bind · _) he)
    · exact ((smulIter_true c P acc).trans (congrArg (Except.bind · _) hd)).trans (apply_addBase c P d)

/-! ### Leading zeros (R132) -/

/-- An iteration from infinity: a 0 bit stays there, and a 1 bit gives the point, by the special case. -/
theorem smulIter_inf (c : Params) (P : Point) (bit : Bool) :
    smulIter c P Point.inf bit = .ok (if bit then P else Point.inf) := by
  cases bit <;> rfl

/-- Settles O26: the leading zeros leave the accumulator at infinity, and the leading 1 turns it into the point. -/
theorem smulWithLeadingZeros : Obligations.SmulWithLeadingZeros := by
  intro c P k width hk
  induction width with
  | zero =>
    obtain rfl : k = 0 := by simpa using hk
    rfl
  | succ w ih =>
    change smulLoop c P k Point.inf (w + 1) = _
    rw [smulLoop_succ, smulIter_inf]
    by_cases hw : k < 2 ^ w
    · rw [Nat.testBit_eq_false_of_lt hw]
      exact ih hw
    · have hlow : 2 ^ w ≤ k := Nat.le_of_not_lt hw
      rw [Nat.testBit_of_two_pow_le_and_two_pow_add_one_gt hlow hk, ptSmul_of_pos (Nat.one_le_two_pow.trans hlow),
        bitLength_eq (Nat.le_add_left 1 w) hlow hk]
      rfl

/-! ### The sequence of operations (R133) -/

/-- The loop is a run of its sequence of operations. -/
theorem smulLoop_eq_runOps (c : Params) (P : Point) (k : Nat) (acc : Point) (i : Nat) :
    smulLoop c P k acc i = runOps c P acc (smulOps k i) := by
  induction i generalizing acc with
  | zero => rfl
  | succ i ih =>
    rw [smulLoop_succ, smulOps, runOps, PointOp.apply]
    cases k.testBit i with
    | false =>
      rw [smulIter_false]
      cases ptDouble c acc with
      | error e => rfl
      | ok d => exact ih d
    | true =>
      rw [smulIter_true]
      cases ptDouble c acc with
      | error e => rfl
      | ok d =>
        simp only [Except.bind, if_true, runOps]
        cases PointOp.addBase.apply c P d with
        | error e => rfl
        | ok acc' => exact ih acc'

/-- A bit is one doubling. -/
theorem count_double_smulOps (k i : Nat) : (smulOps k i).count .double = i := by
  induction i with
  | zero => rfl
  | succ i ih =>
    rw [smulOps]
    cases k.testBit i <;> simp [ih]

/-- A 1 bit is one addition. -/
theorem count_addBase_smulOps (k i : Nat) : (smulOps k i).count .addBase = popcount k i := by
  induction i with
  | zero => rfl
  | succ i ih =>
    rw [smulOps, popcount]
    cases k.testBit i <;> simp [ih]

/-- Settles O27: the loop runs the bits below the leading one, which is a 1 bit of `popcount`. -/
theorem smulOperationCounts : Obligations.SmulOperationCounts := by
  intro c P k n hk hlow hhigh
  obtain ⟨m, rfl⟩ : ∃ m, n = m + 1 := Nat.exists_eq_succ_of_ne_zero (by rintro rfl; omega)
  rw [Nat.add_sub_cancel] at hlow ⊢
  refine ⟨?_, count_double_smulOps k m, ?_⟩
  · rw [ptSmul_of_pos (by omega), bitLength_eq (Nat.le_add_left 1 m) hlow hhigh, smulLoop_eq_runOps,
      Nat.add_sub_cancel]
  · rw [count_addBase_smulOps, popcount, Nat.testBit_of_two_pow_le_and_two_pow_add_one_gt hlow hhigh]
    rfl

/-! ### SMUL (R131) -/

/-- SMUL of canonical coordinates completes with `pt_smul`'s answer, however far its loop has come (R131). -/
theorem exec_smul_of_canon (hf : s.flight = some f) (hl : ∀ l, f.loop = some l → f.LoopConsistent l)
    (h : f.lat.canon1 = true) :
    exec .smul s = .next (s.complete (pointOutcome
      (ptSmul f.lat.params ⟨f.lat.x1.toInt, f.lat.y1.toInt⟩ f.lat.k.toNat))) := by
  have hout : smulOutcome f = pointOutcome (smulFinish f) := if_pos h
  rw [exec_of_flight .smul hf, outcomeOf, hout, smulFinish_eq hl, point1_eq]
  rfl

/-- A canonical point is left in RX and RY as it is, under any modulus a register can hold. -/
theorem exists_complete_canonical (s : State) {p : Word} {c : Params} (hp : c.p = p.toNat) {R : Point}
    (hR : R.Canonical c) :
    ∃ rx ry : Word, (rx.toNat : Int) = R.x ∧ (ry.toNat : Int) = R.y ∧
      s.complete (pointOutcome (.ok R)) = s.succeededWith rx ry s.cur false (decide (R.x = 0 ∧ R.y = 0)) := by
  obtain ⟨hx0, hx, hy0, hy⟩ := hR
  rw [hp] at hx hy
  exact exists_complete_residues s (hx0.trans_lt hx) (Int.emod_eq_of_lt hx0 hx).symm (Int.emod_eq_of_lt hy0 hy).symm

/-- Settles O24: RANGE first, and then what `pt_smul` answers, a canonical point if anything. -/
theorem smulResult : Obligations.SmulResult := by
  refine ⟨rfl, ?_⟩
  rintro s f x y p hf hl rfl rfl rfl
  refine ⟨fun h => exec_of_not_canon1 (.inr (.inr rfl)) hf (mt (canon1_iff _).1 h), fun h => ?_⟩
  rw [exec_smul_of_canon hf hl ((canon1_iff _).2 h)]
  refine ⟨fun hk => ?_, fun hk => ?_, fun R (hR : ptSmul f.lat.params _ _ = _) => ?_,
    fun e (he : ptSmul f.lat.params _ _ = _) => ?_⟩
  · rw [hk]
    rfl
  · rw [hk]
    exact congrArg _ (complete_pointOutcome_toInt s _ _)
  · have hcanon : Point.Canonical f.lat.params ⟨f.lat.x1.toInt, f.lat.y1.toInt⟩ := h
    obtain ⟨rx, ry, hrx, hry, hs⟩ := exists_complete_canonical s rfl (ptSmul_canonical hcanon hR)
    rw [hR, hs]
    exact ⟨rx, ry, hrx, hry, rfl⟩
  · rw [he]
    rfl

end Sys2Proof.Machine
end

section
/-! PROOFS of the statements of 43_scalar.md, the group: under a prime modulus and a non-singular curve the point
functions are those of the group of the curve, so that SMUL is its multiple (R134). -/

namespace Sys2Proof.Machine

/-! ### The curve over the field of residues -/

/-- The curve `y² = x³ + a·x + b` over the residues modulo `p` (00_scope.md §5). -/
def Params.weierstrass (c : Params) (p : Nat) : WeierstrassCurve.Affine (ZMod p) :=
  { a₁ := 0, a₂ := 0, a₃ := 0, a₄ := c.a, a₆ := c.b }

/-- The pair the engine holds for two residues. -/
def Point.ofResidues {p : Nat} (x y : ZMod p) : Point := ⟨x.val, y.val⟩

/-- The pair the engine holds for a point of the group: the sentinel for the point at infinity (00_scope.md R6). -/
def Point.ofGroup {c : Params} {p : Nat} : (c.weierstrass p).Point → Point
  | .zero => Point.inf
  | .some x y _ => Point.ofResidues x y

section

variable {c : Params} {p : Nat} [Fact p.Prime]

/-- `reduce` is the representative of the residue class (00_scope.md R4). -/
theorem val_intCast_eq_reduce (hp : c.p = p) (v : Int) : ((v : ZMod p).val : Int) = reduce c v := by
  rw [ZMod.val_intCast, reduce, mod, hp]

theorem reduce_eq_zero_iff (hp : c.p = p) (v : Int) : reduce c v = 0 ↔ (v : ZMod p) = 0 := by
  rw [← val_intCast_eq_reduce hp, Int.natCast_eq_zero, ZMod.val_eq_zero]

theorem intCast_val (x : ZMod p) : ((x.val : Int) : ZMod p) = x := by
  rw [Int.cast_natCast, ZMod.natCast_zmod_val]

theorem val_eq_val_iff {x y : ZMod p} : (x.val : Int) = y.val ↔ x = y := by
  rw [Int.natCast_inj, (ZMod.val_injective p).eq_iff]

/-- A pair of canonical coordinates is the pair of their residues. -/
theorem Point.Canonical.eq_ofResidues {P : Point} (hP : P.Canonical c) (hp : c.p = p) :
    P = Point.ofResidues (P.x : ZMod p) (P.y : ZMod p) := by
  obtain ⟨hx0, hx, hy0, hy⟩ := hP
  rw [Point.ofResidues, val_intCast_eq_reduce hp, val_intCast_eq_reduce hp, reduce, reduce, mod_of_canonical hx0 hx,
    mod_of_canonical hy0 hy]

/-- The curve's equation is that of the field of residues. -/
theorem equation_iff_onCurve (hp : c.p = p) (P : Point) :
    (c.weierstrass p).Equation (P.x : ZMod p) (P.y : ZMod p) ↔ P.OnCurve c := by
  have hcast : P.OnCurve c ↔ ((P.y * P.y : Int) : ZMod p) = (P.x * P.x * P.x + c.a * P.x + c.b : Int) := by
    rw [ZMod.intCast_eq_intCast_iff', Point.OnCurve, hp]
  rw [hcast, WeierstrassCurve.Affine.equation_iff, Params.weierstrass]
  push_cast
  constructor <;> intro h <;> linear_combination h

/-- A legal modulus is odd (40_control.md R85). -/
theorem two_ne_zero_of_legal (hc : cfgValid c = true) (hp : c.p = p) : (2 : ZMod p) ≠ 0 := by
  have hmin := ((cfgValid_iff c).1 hc).1
  have h := mt (reduce_eq_zero_iff hp (2 * 1)).2 (reduce_two_mul_ne_zero hc zero_le_one (by omega) one_ne_zero)
  rwa [mul_one, Int.cast_ofNat] at h

/-- The discriminant `-16(4a³ + 27b²)` is not 0, the modulus being odd (40_control.md R85, 43_scalar.md R134). -/
theorem discriminant_ne_zero (hc : cfgValid c = true) (hp : c.p = p)
    (hsing : (4 * c.a ^ 3 + 27 * c.b ^ 2) % c.p ≠ 0) : (c.weierstrass p).Δ ≠ 0 := by
  have hne : (4 * c.a ^ 3 + 27 * c.b ^ 2 : ZMod p) ≠ 0 := by
    have h := mt (reduce_eq_zero_iff hp (4 * c.a ^ 3 + 27 * c.b ^ 2)).2 hsing
    push_cast at h
    exact h
  have hΔ : (c.weierstrass p).Δ = -(2 ^ 4 * (4 * c.a ^ 3 + 27 * c.b ^ 2)) := by
    simp only [WeierstrassCurve.Δ, WeierstrassCurve.b₂, WeierstrassCurve.b₄, WeierstrassCurve.b₆, WeierstrassCurve.b₈,
      Params.weierstrass]
    ring
  rw [hΔ]
  exact neg_ne_zero.2 (mul_ne_zero (pow_ne_zero _ (two_ne_zero_of_legal hc hp)) hne)

/-- Every canonical point the membership test accepts is the pair of a point of the group. -/
theorem exists_ofGroup (hc : cfgValid c = true) (hp : c.p = p) (hsing : (4 * c.a ^ 3 + 27 * c.b ^ 2) % c.p ≠ 0)
    {P : Point} (hP : P.Canonical c) (hmem : ptOnCurve c P = true) :
    ∃ g : (c.weierstrass p).Point, Point.ofGroup g = P := by
  rcases (ptOnCurve_iff c P).1 hmem with rfl | hon
  · exact ⟨0, rfl⟩
  · have heq := (equation_iff_onCurve hp P).2 hon
    have hns := (WeierstrassCurve.Affine.equation_iff_nonsingular_of_Δ_ne_zero (discriminant_ne_zero hc hp hsing)).1 heq
    exact ⟨.some _ _ hns, (hP.eq_ofResidues hp).symm⟩

/-- The membership test accepts the pair of any point of the group. -/
theorem ptOnCurve_ofGroup (hp : c.p = p) (g : (c.weierstrass p).Point) : ptOnCurve c (Point.ofGroup g) = true := by
  rw [ptOnCurve_iff]
  match g with
  | .zero => exact .inl rfl
  | .some x y h =>
    refine .inr ((equation_iff_onCurve hp _).1 ?_)
    rw [Point.ofGroup, Point.ofResidues, intCast_val, intCast_val]
    exact h.1

/-- The sentinel is not on a legal curve, so it stands for the point at infinity alone (R85, R134). -/
theorem ofResidues_ne_inf (hc : cfgValid c = true) (hp : c.p = p) {x y : ZMod p}
    (h : (c.weierstrass p).Equation x y) : Point.ofResidues x y ≠ Point.inf := by
  intro hinf
  refine not_onCurve_inf hc (hinf ▸ (equation_iff_onCurve hp _).1 ?_)
  rwa [Point.ofResidues, intCast_val, intCast_val]

/-! ### The point functions are the group's -/

/-- The slope of a line that is not vertical is the field's quotient. -/
theorem exists_lineSlope_eq_div (hp : c.p = p) (num : Int) {den : Int} (hden : (den : ZMod p) ≠ 0) :
    ∃ lam, lineSlope c num den = .ok lam ∧ (lam : ZMod p) = num / den := by
  have hslope := lineSlope_eq_emod num (mt (reduce_eq_zero_iff hp den).1 hden)
  refine ⟨_, hslope, (eq_div_iff hden).2 ?_⟩
  rw [← Int.cast_mul, ZMod.intCast_eq_intCast_iff, ← hp]
  exact lineSlope_mul_den hp Fact.out hslope

/-- The third point of a line is that of the field's formulas, with the field's slope. -/
theorem chord_eq_ofResidues (hp : c.p = p) (lam : Int) (x1 y1 x2 : ZMod p) :
    chord c lam x1.val y1.val x2.val =
      Point.ofResidues ((c.weierstrass p).addX x1 x2 lam) ((c.weierstrass p).addY x1 x2 y1 lam) := by
  simp only [chord, Point.ofResidues, ← val_intCast_eq_reduce hp]
  push_cast
  simp only [ZMod.natCast_zmod_val, WeierstrassCurve.Affine.addY, WeierstrassCurve.Affine.negAddY,
    WeierstrassCurve.Affine.negY, WeierstrassCurve.Affine.addX, Params.weierstrass]
  congr 3 <;> ring

/-- In the short form a point's negative has the ordinate negated. -/
theorem negY_weierstrass (c : Params) (x y : ZMod p) : (c.weierstrass p).negY x y = -y := by
  rw [WeierstrassCurve.Affine.negY, Params.weierstrass, zero_mul, sub_zero, sub_zero]

/-- The slope of the tangent at a point off the axis is the group's. -/
theorem exists_lineSlope_tangent (hc : cfgValid c = true) (hp : c.p = p) (x : ZMod p) {y : ZMod p} (hy : y ≠ 0) :
    y ≠ (c.weierstrass p).negY x y ∧
      ∃ lam, lineSlope c (3 * x.val * x.val + c.a) (2 * y.val) = .ok lam ∧
        (lam : ZMod p) = (c.weierstrass p).slope x x y y := by
  have hden : ((2 * y.val : Int) : ZMod p) = 2 * y := by rw [Int.cast_mul, intCast_val, Int.cast_ofNat]
  have hne : 2 * y ≠ 0 := mul_ne_zero (two_ne_zero_of_legal hc hp) hy
  have hneg : y ≠ (c.weierstrass p).negY x y := by
    rw [negY_weierstrass]
    exact fun h => hne (by linear_combination h)
  obtain ⟨lam, hlam, hdiv⟩ := exists_lineSlope_eq_div hp (3 * x.val * x.val + c.a) (hden.trans_ne hne)
  refine ⟨hneg, lam, hlam, ?_⟩
  rw [hdiv, hden, WeierstrassCurve.Affine.slope_of_Y_ne rfl hneg, negY_weierstrass, Params.weierstrass]
  push_cast
  rw [ZMod.natCast_zmod_val]
  congr 1 <;> ring

/-- The slope of the line through two points with different abscissas is the group's. -/
theorem exists_lineSlope_secant (hp : c.p = p) {x1 x2 : ZMod p} (hx : x1 ≠ x2) (y1 y2 : ZMod p) :
    ∃ lam, lineSlope c (y2.val - y1.val) (x2.val - x1.val) = .ok lam ∧
      (lam : ZMod p) = (c.weierstrass p).slope x1 x2 y1 y2 := by
  have hsub (u v : ZMod p) : ((u.val - v.val : Int) : ZMod p) = u - v := by
    rw [Int.cast_sub, intCast_val, intCast_val]
  obtain ⟨lam, hlam, hdiv⟩ := exists_lineSlope_eq_div hp (y2.val - y1.val)
    ((hsub x2 x1).trans_ne (sub_ne_zero.2 (Ne.symm hx)))
  refine ⟨lam, hlam, ?_⟩
  rw [hdiv, hsub, hsub, WeierstrassCurve.Affine.slope_of_X_ne hx, ← neg_div_neg_eq, neg_sub, neg_sub]

/-- `pt_double` is the group's doubling (R102). -/
theorem ptDouble_ofGroup (hc : cfgValid c = true) (hp : c.p = p) (g : (c.weierstrass p).Point) :
    ptDouble c (Point.ofGroup g) = .ok (Point.ofGroup (g + g)) := by
  match g with
  | .zero => rfl
  | .some x y h =>
    by_cases hy : y = 0
    · subst hy
      rw [WeierstrassCurve.Affine.Point.add_self_of_Y_eq (by rw [negY_weierstrass, neg_zero])]
      exact ptDouble_of_y_eq_zero (Int.natCast_eq_zero.2 ZMod.val_zero)
    · obtain ⟨hneg, lam, hlam, hslope⟩ := exists_lineSlope_tangent hc hp x hy
      have hval : (y.val : Int) ≠ 0 := mt Int.natCast_eq_zero.1 (mt (ZMod.val_eq_zero y).1 hy)
      rw [WeierstrassCurve.Affine.Point.add_self_of_Y_ne hneg, Point.ofGroup, Point.ofGroup, ← hslope,
        ptDouble_of_y_ne_zero hval, ← chord_eq_ofResidues hp]
      exact congrArg (Except.map _) hlam

/-- `pt_add` is the group's addition (R104). -/
theorem ptAdd_ofGroup (hc : cfgValid c = true) (hp : c.p = p) (g h : (c.weierstrass p).Point) :
    ptAdd c (Point.ofGroup g) (Point.ofGroup h) = .ok (Point.ofGroup (g + h)) := by
  match g, h with
  | .zero, h => exact (ptAdd_inf_left rfl).trans (congrArg _ (congrArg _ (zero_add h).symm))
  | g, .zero => exact (ptAdd_inf_right rfl).trans (congrArg _ (congrArg _ (add_zero g).symm))
  | .some x1 y1 h1, .some x2 y2 h2 =>
    have hP := ofResidues_ne_inf hc hp h1.1
    have hQ := ofResidues_ne_inf hc hp h2.1
    by_cases hx : x1 = x2
    · subst hx
      by_cases hy : y1 = y2
      · subst hy
        exact (ptAdd_self hP).trans (ptDouble_ofGroup hc hp (.some x1 y1 h1))
      · have hneg := (WeierstrassCurve.Affine.Y_eq_of_X_eq h1.1 h2.1 rfl).resolve_left hy
        rw [WeierstrassCurve.Affine.Point.add_of_Y_eq rfl hneg]
        exact ptAdd_vertical hP hQ rfl (mt val_eq_val_iff.1 hy)
    · obtain ⟨lam, hlam, hslope⟩ := exists_lineSlope_secant hp hx y1 y2
      rw [WeierstrassCurve.Affine.Point.add_of_X_ne hx, Point.ofGroup, Point.ofGroup, Point.ofGroup, ← hslope,
        ptAdd_of_x_ne hP hQ (mt val_eq_val_iff.1 hx), ← chord_eq_ofResidues hp]
      exact congrArg (Except.map _) hlam

/-! ### SMUL is the group's multiple (R134) -/

/-- An iteration doubles the accumulator and adds the bit's multiple of the point. -/
theorem smulIter_ofGroup (hc : cfgValid c = true) (hp : c.p = p) (g h : (c.weierstrass p).Point) (bit : Bool) :
    smulIter c (Point.ofGroup g) (Point.ofGroup h) bit = .ok (Point.ofGroup (h + h + bit.toNat • g)) := by
  cases bit with
  | false => rw [smulIter_false, ptDouble_ofGroup hc hp, Bool.toNat_false, zero_nsmul, add_zero]
  | true =>
    rw [smulIter_true, ptDouble_ofGroup hc hp, Bool.toNat_true, one_nsmul, ← ptAdd_ofGroup hc hp (h + h) g]
    exact apply_addBase_eq_ptAdd c _ _

/-- `pt_smul` is the group's multiple, for any scalar. -/
theorem ptSmul_ofGroup (hc : cfgValid c = true) (hp : c.p = p) (g : (c.weierstrass p).Point) (k : Nat) :
    ptSmul c (Point.ofGroup g) k = .ok (Point.ofGroup (k • g)) := by
  induction k using Nat.binaryRecFromOne with
  | zero => rw [zero_nsmul]; rfl
  | one => rw [one_nsmul]; rfl
  | bit bit k hk ih =>
    rw [ptSmul_bit (Nat.one_le_iff_ne_zero.2 hk), ih, Nat.bit_val, add_nsmul, two_mul, add_nsmul]
    exact smulIter_ofGroup hc hp g (k • g) bit

end

/-- Settles O32: `(k1 + k2) g = k1 g + k2 g` in the group. -/
theorem smulIsAdditive : Obligations.SmulIsAdditive := by
  intro c p P k1 k2 hc hp hprime hsing hP hmem _
  have : Fact p.Prime := ⟨hprime⟩
  obtain ⟨g, rfl⟩ := exists_ofGroup hc hp hsing hP hmem
  refine ⟨_, _, ptSmul_ofGroup hc hp g k1, ptSmul_ofGroup hc hp g k2, ?_⟩
  rw [ptSmul_ofGroup hc hp, ptAdd_ofGroup hc hp, add_nsmul]

/-- Settles O33: `kb (ka g) = ka (kb g)` in the group, whose points the membership test accepts. -/
theorem diffieHellmanAgreement : Obligations.DiffieHellmanAgreement := by
  refine ⟨⟨by decide, (by norm_num : Nat.Prime 101), by decide, by unfold Point.Canonical; decide,
    by decide⟩, ?_⟩
  intro c p P ka kb hc hp hprime hsing hP hmem _ _
  have : Fact p.Prime := ⟨hprime⟩
  obtain ⟨g, rfl⟩ := exists_ofGroup hc hp hsing hP hmem
  refine ⟨_, _, _, ptSmul_ofGroup hc hp g ka, ptSmul_ofGroup hc hp g kb, ptSmul_ofGroup hc hp _ kb, ?_,
    ptOnCurve_ofGroup hp _⟩
  rw [ptSmul_ofGroup hc hp, smul_comm]

end Sys2Proof.Machine
end

section
/-! PROOFS of the statements of 60_exceptions.md: the turns, the codes of ERR, failure, DIV_ZERO, the overrun and the
interrupt output (R150-R170). -/

namespace Sys2Proof.Machine

/-! ### Turns (R160, R164, R170) -/

/-- Settles O5: `step` is defined so, and `popTurn_nil` and `popTurn_cons` say whose turn is next. -/
theorem stepTakesTheNextTurn : Obligations.StepTakesTheNextTurn :=
  fun _ => ⟨rfl, popTurn_nil, fun _ _ => popTurn_cons⟩

/-- The engine's step without a command in flight. -/
theorem engineTurn_of_idle {s : State} (hidle : s.flight = none) : engineTurn s = .next s := by
  simp only [engineTurn, hidle]

/-- Settles O10, by `engineTurn_of_idle`. -/
theorem idleEngineChangesNothing : Obligations.IdleEngineChangesNothing :=
  fun _ hidle => engineTurn_of_idle hidle

/-- The engine's step never stops (60_exceptions.md R160). -/
theorem exists_engineTurn_eq_next (s : State) : ∃ t, engineTurn s = .next t := by
  rcases engineTurn_cases s with ⟨-, ht⟩ | ⟨f, left, -, -, ht⟩ | ⟨f, i, -, -, -, ht⟩ | ⟨f, r, -, -, -, ht⟩ <;>
    exact ⟨_, ht⟩

/-- Settles O41: the engine's step and reset never stop, and the host's only when the access reaches no register. -/
theorem onlyErrorResponsesStop : Obligations.OnlyErrorResponsesStop := by
  intro turn s
  cases turn with
  | engine => exact .inl (exists_engineTurn_eq_next s)
  | reset => exact .inl ⟨resetTurn s, rfl⟩
  | host a =>
    rcases hostTurn_cases a s with ⟨r, -, -, ht⟩ | ⟨r, off, lanes, -, -, ht⟩ | ⟨hnone, ht⟩
    · exact .inl ⟨_, ht⟩
    · exact .inl ⟨_, ht⟩
    · exact .inr ⟨a, a.errorData, rfl, ht, (target_eq_none_iff a).1 hnone⟩

/-! ### The codes of ERR (R150) -/

/-- Bits 11:8 of STATUS are the ERR field (10_state.md R12). -/
theorem extractLsb'_statusWord_err (s : State) : s.statusWord.extractLsb' 8 4 = errField s.status.err := by
  apply BitVec.eq_of_getLsbD_eq
  intro i hi
  rw [BitVec.getLsbD_extractLsb', statusLayout]
  interval_cases i <;> simp

/-- No code of ERR is above 4. -/
theorem toNat_errField_le (o : Option Err) : (errField o).toNat ≤ 4 := by
  cases o with
  | none => decide
  | some e => cases e <;> decide

/-- Settles O49: the codes are those of `errField`, and STATUS shows no other. -/
theorem errorCodes : Obligations.ErrorCodes := by
  refine ⟨rfl, rfl, rfl, rfl, rfl, fun s => ?_⟩
  calc
    s.statusWord.toNat / 2 ^ 8 % 16 = (s.statusWord.extractLsb' 8 4).toNat := by
      rw [BitVec.extractLsb'_toNat, Nat.shiftRight_eq_div_pow]
    _ = (errField s.status.err).toNat := by rw [extractLsb'_statusWord_err]
    _ ≤ 4 := toNat_errField_le _

/-! ### Failure and DIV_ZERO (R152, R154) -/

/-- Settles O35: a completion with an error writes ERR, DONE and BUSY alone, and BOOL and INF are 0 since issue. -/
theorem failureIsAllOrNothing : Obligations.FailureIsAllOrNothing := by
  intro i s t f hf hinflight hexec herr
  rw [exec_of_flight i hf] at hexec
  obtain rfl := Host.Outcome.next.inj hexec
  cases ho : outcomeOf i f with
  | ok w =>
    rw [ho] at herr
    exact absurd rfl herr
  | error e => exact ⟨e, rfl, rfl, hinflight.bool, hinflight.inf⟩

/-- Under a legal curve a point command's only error is RANGE (60_exceptions.md R154, R155). -/
theorem outcomeOf_point_eq_error {i : Instr} {f : Flight} {e : Err} (hi : i = .dbl ∨ i = .add ∨ i = .smul)
    (hc : cfgValid f.lat.params = true) (hl : ∀ l, f.loop = some l → f.LoopConsistent l)
    (h : outcomeOf i f = .error e) : e = .range := by
  rcases outcomeOf_point hi f with ho | ⟨o, hcall, ho⟩ <;> rw [ho] at h
  · cases h
    rfl
  · obtain ⟨P, rfl, -⟩ := hcall.canonical hc hl
    cases h

/-- Settles O29, by `outcomeOf_point_eq_error`. -/
theorem pointCommandsNeverDivideByZero : Obligations.PointCommandsNeverDivideByZero := by
  intro i s t f hi hf hl hc hexec
  rw [exec_of_flight i hf] at hexec
  obtain rfl := Host.Outcome.next.inj hexec
  cases ho : outcomeOf i f with
  | ok w => exact nofun
  | error e =>
    obtain rfl := outcomeOf_point_eq_error hi hc hl ho
    exact nofun

/-! ### The overrun (R159) -/

/-- A CMD write while BUSY sets OVR and does nothing else. -/
theorem writeCmd_of_busy {s : State} (hbusy : s.flight.isSome = true) (w : Word) :
    s.writeCmd w = { s with status := { s.status with ovr := true } } :=
  if_pos hbusy

/-- A host write of any word to CMD while BUSY is dropped. -/
theorem takeTurn_cmd_of_busy {s : State} (hbusy : s.flight.isSome = true) (w : Word) :
    takeTurn (.host (.write 0x00 (lanesOf w))) s =
      .next ({ s with status := { s.status with ovr := true } }.withReply .written) := by
  rw [← writeCmd_of_busy hbusy w]
  exact takeTurn_write s .cmd w

/-- A host write that clears OVR is one of a word with bit 4 to STATUS: a write to CMD sets OVR or leaves it, and no
other register's write touches it (10_state.md R13). -/
theorem writeReg_clears_ovr {s : State} {r : Reg} {v : Word} (hset : s.status.ovr = true)
    (hclear : (writeReg s r v).status.ovr = false) : r = .status ∧ v.getLsbD 4 = true := by
  cases r
  case cmd =>
    simp only [writeReg, State.writeCmd] at hclear
    split at hclear <;> simp [hset] at hclear
  case status => simpa [writeReg, hset] using hclear
  all_goals simp [writeReg, hset] at hclear

/-- Settles O13, by `takeTurn_cmd_of_busy`, and by the effect of each turn: of the turns other than reset only a host
write can clear OVR. -/
theorem overrunRule : Obligations.OverrunRule := by
  refine ⟨fun s f w hf => ⟨_, takeTurn_cmd_of_busy (Option.isSome_of_eq_some hf) w⟩, fun turn s t h hset hclear => ?_⟩
  cases turnEffect_of_takeTurn h with
  | reset => exact .inl rfl
  | write r lanes hlen =>
    obtain ⟨rfl, hbit⟩ := writeReg_clears_ovr hset hclear
    exact .inr ⟨lanes, rfl, hlen, hbit⟩
  | complete f i => simp [complete_frame, hset] at hclear
  | read | idle | internal | illegal => simp [hset] at hclear

/-! ### The interrupt output (R162) -/

/-- IRQ is low while DONE is 0. -/
theorem irq_of_not_done {s : State} (h : s.status.done = false) : s.irq = false := by
  rw [State.irq, h, Bool.false_and]

/-- IRQ is low while IE is 0. -/
theorem irq_of_not_ie {s : State} (h : s.ie = false) : s.irq = false := by
  rw [State.irq, h, Bool.and_false]

/-- IRQ drives its own line and no other. -/
theorem drivesLine_iff (s : State) (n : Nat) : s.drivesLine n = true ↔ n = Config.irqLine ∧ s.irq = true := by
  rw [State.drivesLine, Bool.and_eq_true, decide_eq_true_eq]

/-- A write of 1 to STATUS bit 1 clears DONE while BUSY = 0 (10_state.md R13). -/
theorem done_ackStatus_of_idle {s : State} {w : Word} (hidle : s.flight = none) (hbit : w.getLsbD 1 = true) :
    (s.ackStatus w).status.done = false := by
  simp [hidle, hbit]

/-- Settles O52: completion leaves IRQ at IE (`irq_complete`); acknowledgement, issue and reset leave DONE 0, a write of 0
to CTRL leaves IE 0, and a dropped CMD write touches neither. -/
theorem interruptOutput : Obligations.InterruptOutput := by
  refine ⟨fun s n => ⟨rfl, drivesLine_iff s n⟩, fun s f hf hleft => ?_, fun s w hidle hbit => ?_, fun s w hidle => ?_,
    fun s w hbit => ?_, fun s w hbusy => ?_, fun s => ?_⟩
  · obtain ⟨o, ht⟩ := engineTurn_completes hf hleft
    exact ⟨_, ht, irq_complete s o⟩
  · exact ⟨_, takeTurn_write s .status w, irq_of_not_done (done_ackStatus_of_idle hidle hbit)⟩
  · exact ⟨_, takeTurn_cmd_of_idle hidle w, irq_of_not_done rfl⟩
  · exact ⟨_, takeTurn_write s .ctrl w, irq_of_not_ie hbit⟩
  · exact ⟨_, takeTurn_cmd_of_busy hbusy w, rfl⟩
  · exact ⟨resetTurn s, rfl, irq_of_not_done rfl⟩

end Sys2Proof.Machine
end

section
/-! PROOFS of the statements of 70_reset_and_hazards.md: reset, and host accesses during the busy interval (R180-R183,
R188). -/

namespace Sys2Proof.Machine

/-! ### Reset (R180-R183) -/

/-- After the reset step every register reads its reset value: only the environment is not that of the reset state. -/
theorem readReg_resetTurn (s : State) (r : Reg) : readReg (resetTurn s) r = readReg State.reset r := by
  cases r <;> rfl

/-- Settles O54: the reset step leaves nothing in flight and DONE 0, and the registers are those of `resetValues`. -/
theorem resetStep : Obligations.ResetStep := by
  refine fun s => ⟨resetTurn s, rfl, rfl, rfl, irq_of_not_done rfl, ?_⟩
  simp only [readReg_resetTurn]
  exact resetValues

/-- Settles O55, by `inv_reset`. -/
theorem invAtReset : Obligations.InvAtReset :=
  inv_reset

/-! ### States that complete alike (R24) -/

/-- `t` agrees with `s` on the command in flight and on all that its completion may write: RX, RY, the active curve and
STATUS but for OVR. Operands, the staging curve, CTRL and the environment may differ. -/
structure CompletesAlike (s t : State) : Prop where
  flight : t.flight = s.flight
  rx : t.rx = s.rx
  ry : t.ry = s.ry
  cur : t.cur = s.cur
  status : t.status = { s.status with ovr := t.status.ovr }

variable {s t u : State} {f : Flight}

theorem CompletesAlike.trans (hst : CompletesAlike s t) (htu : CompletesAlike t u) : CompletesAlike s u where
  flight := htu.flight.trans hst.flight
  rx := htu.rx.trans hst.rx
  ry := htu.ry.trans hst.ry
  cur := htu.cur.trans hst.cur
  status := by
    rw [htu.status, hst.status]

theorem CompletesAlike.busy (h : CompletesAlike s t) : t.busy = s.busy := by
  rw [busy_eq_isSome, busy_eq_isSome, h.flight]

theorem completesAlike_withAgenda (s : State) (ts : List Turn) : CompletesAlike s (s.withAgenda ts) :=
  ⟨rfl, rfl, rfl, rfl, rfl⟩

theorem completesAlike_withReply (s : State) (r : Reply) : CompletesAlike s (s.withReply r) :=
  ⟨rfl, rfl, rfl, rfl, rfl⟩

/-! ### The host's turns while busy (R188) -/

/-- A host write while BUSY changes no field of STATUS but OVR: a CMD write is dropped, and a STATUS write does not
clear DONE (10_state.md R13, 60_exceptions.md R159). -/
theorem writeReg_status_of_busy (hf : s.flight = some f) (r : Reg) (v : Word) :
    (writeReg s r v).status = { s.status with ovr := (writeReg s r v).status.ovr } := by
  cases r with
  | cmd => simp [writeReg, writeCmd_of_busy (Option.isSome_of_eq_some hf)]
  | status => simp [writeReg, hf]
  | _ => rfl

/-- A host write while BUSY leaves the command in flight to complete alike. -/
theorem completesAlike_writeReg (hf : s.flight = some f) (r : Reg) (v : Word) :
    CompletesAlike s (writeReg s r v) := by
  obtain ⟨hrx, hry, hcur⟩ := writeReg_results s r v
  exact ⟨(writeReg_flight_of_busy hf r v).trans hf.symm, hrx, hry, hcur, writeReg_status_of_busy hf r v⟩

/-- An accepted host access while BUSY leaves the command in flight to complete alike, and the turns to come. -/
theorem hostTurn_completesAlike {a : Access} (hf : s.flight = some f) (ha : a.target ≠ none) :
    ∃ t, hostTurn a s = .next t ∧ CompletesAlike s t ∧ t.env.agenda = s.env.agenda := by
  rcases hostTurn_cases a s with ⟨r, -, -, ht⟩ | ⟨r, off, lanes, -, -, ht⟩ | ⟨hnone, -⟩
  · exact ⟨_, ht, completesAlike_withReply s _, rfl⟩
  · exact ⟨_, ht, (completesAlike_writeReg hf r _).trans (completesAlike_withReply _ _), (writeReg_env s r _).1⟩
  · exact absurd hnone ha

/-! ### The engine's turns -/

/-- The outcome of a completion step is a function of the command in flight, whatever else the state holds (10_state.md
R24). -/
theorem exists_outcome_of_flight (hleft : f.left = 0) :
    ∃ o, ∀ s : State, s.flight = some f → engineTurn s = .next (s.complete o) := by
  cases hd : decodeWord f.lat.cmd with
  | ok i => exact ⟨outcomeOf i f, fun s hf => by rw [engineTurn_of_decoded hf hleft hd, exec_of_flight i hf]⟩
  | error r => exact ⟨.error .illegal, fun s hf => engineTurn_of_rejected hf hleft hd⟩

/-- The same internal step keeps states completing alike. -/
theorem CompletesAlike.internalStep (h : CompletesAlike s t) (f : Flight) (left : Nat) :
    CompletesAlike (internalStep s f left) (internalStep t f left) :=
  ⟨rfl, h.rx, h.ry, h.cur, h.status⟩

/-- Completion with the same outcome gives the same results and the same STATUS but for OVR. -/
theorem CompletesAlike.complete (h : CompletesAlike s t) (o : Except Err Writes) :
    CompletesAlike (s.complete o) (t.complete o) := by
  obtain ⟨-, hrx, hry, hcur, hstatus⟩ := h
  cases o with
  | ok w =>
    refine ⟨rfl, by simp [hrx], by simp [hry], by simp [hcur], ?_⟩
    simp only [State.complete_ok_status]
    rw [hstatus]
  | error e =>
    refine ⟨rfl, hrx, hry, hcur, ?_⟩
    simp only [State.complete_error_status]
    rw [hstatus]

/-- The engine's turn, of whatever kind, keeps states completing alike, and the turns to come. -/
theorem CompletesAlike.engineTurn (h : CompletesAlike s t) :
    ∃ s' t', engineTurn s = .next s' ∧ engineTurn t = .next t' ∧ CompletesAlike s' t' ∧ s'.env = s.env ∧
      t'.env = t.env := by
  cases hs : s.flight with
  | none => exact ⟨s, t, engineTurn_of_idle hs, engineTurn_of_idle (h.flight.trans hs), h, rfl, rfl⟩
  | some f =>
    have ht : t.flight = some f := h.flight.trans hs
    cases hleft : f.left with
    | succ left =>
      exact ⟨_, _, engineTurn_of_left hs hleft, engineTurn_of_left ht hleft, h.internalStep f left, rfl, rfl⟩
    | zero =>
      obtain ⟨o, ho⟩ := exists_outcome_of_flight hleft
      have henv (s : State) : (s.complete o).env = s.env := by simp [complete_frame s o]
      exact ⟨_, _, ho s hs, ho t ht, h.complete o, henv s, henv t⟩

/-! ### Runs -/

/-- With nothing to come from outside, runs of as many steps keep states completing alike. -/
theorem CompletesAlike.run (k : Nat) (h : CompletesAlike s t) (hs : s.env.agenda = []) (ht : t.env.agenda = []) :
    ∃ s' t' : State, core.run k s = .next s' ∧ core.run k t = .next t' ∧ CompletesAlike s' t' := by
  induction k generalizing s t with
  | zero => exact ⟨s, t, rfl, rfl, h⟩
  | succ k ih =>
    obtain ⟨s1, t1, hs1, ht1, h1, hsenv, htenv⟩ := h.engineTurn
    rw [run_next k ((step_nil hs).trans hs1), run_next k ((step_nil ht).trans ht1)]
    exact ih h1 (by rw [hsenv, hs]) (by rw [htenv, ht])

/-- Host accesses interleaved with internal steps, then `k` turns of the engine, end as the engine's turns alone: a host
access moves only the run that has it, and an internal step moves both. -/
theorem CompletesAlike.run_interleaved {turns : List Turn} (k : Nat) (h : CompletesAlike s t) (hs : s.env.agenda = [])
    (ht : t.env.agenda = turns) (hf : s.flight = some f)
    (hturns : ∀ turn ∈ turns, turn = .engine ∨ ∃ a : Access, turn = .host a ∧ a.target ≠ none)
    (hcount : turns.count .engine ≤ f.left) :
    ∃ s' t' : State, core.run (turns.count .engine + k) s = .next s' ∧ core.run (turns.length + k) t = .next t' ∧
      CompletesAlike s' t' := by
  induction turns generalizing s t f with
  | nil => simpa using h.run k hs ht
  | cons turn turns ih =>
    obtain ⟨hturn, hrest⟩ := List.forall_mem_cons.1 hturns
    have hpop : CompletesAlike s (t.withAgenda turns) := h.trans (completesAlike_withAgenda t turns)
    have hpopf : (t.withAgenda turns).flight = some f := hpop.flight.trans hf
    rw [List.length_cons, Nat.add_right_comm]
    rcases hturn with rfl | ⟨a, rfl, ha⟩
    · rw [List.count_cons_self] at hcount ⊢
      obtain ⟨left, hleft⟩ : ∃ left, f.left = left + 1 := ⟨f.left - 1, by omega⟩
      rw [Nat.add_right_comm, run_next _ ((step_nil hs).trans (engineTurn_of_left hf hleft)),
        run_next _ ((step_cons ht).trans (engineTurn_of_left hpopf hleft))]
      exact ih (hpop.internalStep f left) hs rfl rfl hrest (by simp only [Flight.advance]; omega)
    · obtain ⟨t1, hstep, ht1, hagenda⟩ := hostTurn_completesAlike hpopf ha
      rw [List.count_cons_of_ne (by simp)] at hcount ⊢
      rw [run_next _ ((step_cons ht).trans hstep)]
      exact ih (hpop.trans ht1) hs hagenda hf hrest hcount

/-- Settles O58: by `completesInItsLatency` the run with no access completes, and by `CompletesAlike.run_interleaved`
the run with the accesses ends like it. -/
theorem operandWritesAfterIssueAreSafe : Obligations.OperandWritesAfterIssueAreSafe := by
  intro s f turns n hf hagenda hturns hcount
  have haccepted : ∀ turn ∈ turns, turn = .engine ∨ ∃ a : Access, turn = .host a ∧ a.target ≠ none := by
    intro turn hmem
    refine (hturns turn hmem).imp_right fun ⟨a, hturn, hwidth, halign, hoff⟩ => ⟨a, hturn, ?_⟩
    rw [Ne, target_eq_none_iff]
    omega
  obtain ⟨-, u, hu, hidle, hdone⟩ := completesInItsLatency (s.withAgenda []) f rfl hf
  have hstart : CompletesAlike (s.withAgenda []) s := ⟨rfl, rfl, rfl, rfl, rfl⟩
  obtain ⟨u', t, hu', ht, h⟩ := hstart.run_interleaved (n + 1) rfl hagenda hf haccepted (by omega)
  rw [← Nat.add_assoc, hcount, hu] at hu'
  obtain rfl := Host.Outcome.next.inj hu'
  have hstatus := h.status
  exact ⟨t, u, ht, hu, h.busy.trans hidle, hidle, h.rx, h.ry, h.cur, by rw [hstatus], by rw [hstatus],
    by rw [hstatus], by rw [hstatus], by rw [hstatus, hdone], hdone⟩

end Sys2Proof.Machine
end
